-- ==== Sys2Proof/Word.lean ====
section
/-! DEFINITION. The widths of the qedsac core (`00_scope.md` rules R7 and R8). Nothing but names for
bit-vector types stands here. -/

namespace Sys2Proof

/-- A store word, and the top word of every register: `HIWORD_BITS = 17` (rule R7). -/
abbrev Word := BitVec 17

/-- A register word that carries the sandwich bit: `SLOT_BITS = 18` (rule R7). -/
abbrev SlotWord := BitVec 18

/-- A long word: `LONG_BITS = 35` (rule R7). -/
abbrev LongWord := BitVec 35

/-- The composed Accumulator: 71 bits (rule R8). -/
abbrev AccWord := BitVec 71

/-- An address field, and Sequence Control: `ADDR_BITS = 11` (rule R7). -/
abbrev Addr := BitVec 11

/-- A function code, and a perforator code: `FN_BITS = 5` (rules R7 and R17). -/
abbrev Code := BitVec 5

end Sys2Proof
end

