-- ==== Sys2Proof/Config.lean ====
section
/-! DEFINITION. The parameters the source leaves open (`00_scope.md` rule R9) that stay fixed for one
machine. Each is an uninterpreted constant: no proof can learn its value, so a statement that mentions
it holds for every value. `FN_CODE`, and the parameters the host may change between runs (`BOOT_REV`,
`REALTIME`, `BELL`, `CASE_SENSITIVE`, `TAPE`), are fields of the machine's State. -/

namespace Sys2Proof

/-- `BOOT_REV`: which initial-order sequence a `start` loads (`70_reset_and_hazards.md` rule R242). -/
inductive BootRev where
  | one
  | two
deriving DecidableEq, Repr, Inhabited

/-- `PRINT_LONG_ADDR`: which word of the pair a long Print reads (`45_io.md` rule R196). -/
inductive LongPrintWord where
  | even
  | odd
deriving DecidableEq, Repr, Inhabited

/-- The length of `INITIAL_ORDERS(rev)`: at most 1024 words (`70_reset_and_hazards.md` rule R242).
Free: log entry 7. -/
opaque Config.initialOrdersLength : BootRev → Fin 1025

/-- Word `i` of `INITIAL_ORDERS(rev)`: "A model must not assume any particular word of either
sequence" (`70_reset_and_hazards.md` rule R242). Free: log entry 7. -/
opaque Config.initialOrderWord : BootRev → Nat → Word

/-- `START_CLEARS`: whether `start` zeroes every tank (`70_reset_and_hazards.md` rule R244).
Free: log entry 8. -/
opaque Config.startClears : Bool

/-- `PRINT_LONG_ADDR` (`45_io.md` rule R196). Free: log entry 8. -/
opaque Config.printLongAddr : LongPrintWord

/-- Whether a `stop` requested while a `kill` is pending makes the pending request a stop: the spec
keeps one Boolean and does not say (`60_exceptions.md` rules R218, R222 and R225). Free: log
entry 14. -/
opaque Config.stopReplacesKill : Bool

end Sys2Proof
end

