-- ==== Sys2Proof/Syntax.lean ====
section
/-! DEFINITION. The orders of the qedsac core (`30_encoding.md` section 1 and rule R18 of
`00_scope.md`): the names of the 18 operations, and one constructor of `Instr` per mnemonic of
`spec/opcode_table.json`. Every order keeps its address field `n` and its long flag `l`, also where the
operation ignores them (rule R72), so that no bit of an encoding is dropped. -/

namespace Sys2Proof

/-- The 18 operations (`00_scope.md` rule R18), in the order of the opcode table. -/
inductive Operation where
  | add | subtract | loadMultiplier | multiplyAdd | multiplySubtract | transfer | untransfer | collate
  | rightShift | leftShift | branchNonneg | branchNeg | read | print | printCheck | noop | roundOff
  | halt
deriving DecidableEq, Repr

/-- Every operation, in the order of the opcode table. -/
def Operation.all : List Operation :=
  [.add, .subtract, .loadMultiplier, .multiplyAdd, .multiplySubtract, .transfer, .untransfer, .collate,
   .rightShift, .leftShift, .branchNonneg, .branchNeg, .read, .print, .printCheck, .noop, .roundOff,
   .halt]

/-- `FN_CODE`: a map from the operations to 5-bit function codes (`30_encoding.md` rule R73), written as
plain data, one code per operation. -/
structure FnCode where
  add : Code
  subtract : Code
  loadMultiplier : Code
  multiplyAdd : Code
  multiplySubtract : Code
  transfer : Code
  untransfer : Code
  collate : Code
  rightShift : Code
  leftShift : Code
  branchNonneg : Code
  branchNeg : Code
  read : Code
  print : Code
  printCheck : Code
  noop : Code
  roundOff : Code
  halt : Code
deriving DecidableEq, Repr

/-- `FN_CODE(op)`. -/
def FnCode.code (fc : FnCode) : Operation → Code
  | .add => fc.add
  | .subtract => fc.subtract
  | .loadMultiplier => fc.loadMultiplier
  | .multiplyAdd => fc.multiplyAdd
  | .multiplySubtract => fc.multiplySubtract
  | .transfer => fc.transfer
  | .untransfer => fc.untransfer
  | .collate => fc.collate
  | .rightShift => fc.rightShift
  | .leftShift => fc.leftShift
  | .branchNonneg => fc.branchNonneg
  | .branchNeg => fc.branchNeg
  | .read => fc.read
  | .print => fc.print
  | .printCheck => fc.printCheck
  | .noop => fc.noop
  | .roundOff => fc.roundOff
  | .halt => fc.halt

/-- A decoded order (`30_encoding.md` rules R70 to R72): 18 operations and Invalid. -/
inductive Instr where
  /-- A: Add (`40_add_subtract.md` rule R105). -/
  | add (n : Addr) (l : Bool)
  /-- S: Subtract (`40_add_subtract.md` rule R106). -/
  | subtract (n : Addr) (l : Bool)
  /-- H: Load multiplier (`41_multiply.md` rule R122). -/
  | loadMultiplier (n : Addr) (l : Bool)
  /-- V: Multiply-add (`41_multiply.md` rule R123). -/
  | multiplyAdd (n : Addr) (l : Bool)
  /-- N: Multiply-subtract (`41_multiply.md` rule R124). -/
  | multiplySubtract (n : Addr) (l : Bool)
  /-- T: Transfer-clearing (`42_transfer.md` rule R140). -/
  | transfer (n : Addr) (l : Bool)
  /-- U: Un-transfer (`42_transfer.md` rule R141). -/
  | untransfer (n : Addr) (l : Bool)
  /-- C: Collate (`40_add_subtract.md` rule R107). -/
  | collate (n : Addr) (l : Bool)
  /-- R: Right shift (`43_shift.md` rule R152). -/
  | rightShift (n : Addr) (l : Bool)
  /-- L: Left shift (`43_shift.md` rule R153). -/
  | leftShift (n : Addr) (l : Bool)
  /-- E: Branch if non-negative (`44_control.md` rule R170). -/
  | branchNonneg (n : Addr) (l : Bool)
  /-- G: Branch if negative (`44_control.md` rule R171). -/
  | branchNeg (n : Addr) (l : Bool)
  /-- I: Read (`45_io.md` rule R192). -/
  | read (n : Addr) (l : Bool)
  /-- O: Print (`45_io.md` rule R195). -/
  | print (n : Addr) (l : Bool)
  /-- F: Print-check (`45_io.md` rule R197). -/
  | printCheck (n : Addr) (l : Bool)
  /-- X: No-op (`44_control.md` rule R174). -/
  | noop (n : Addr) (l : Bool)
  /-- Y: Round-off (`40_add_subtract.md` rule R108). -/
  | roundOff (n : Addr) (l : Bool)
  /-- Z: Halt (`44_control.md` rule R180). -/
  | halt (n : Addr) (l : Bool)
  /-- Invalid: an order whose function code `f` no operation has (`44_control.md` rule R181). -/
  | invalid (f : Code) (n : Addr) (l : Bool)
deriving DecidableEq, Repr

/-- The operation an order performs; none for Invalid. -/
def Instr.operation : Instr → Option Operation
  | .add _ _ => some .add
  | .subtract _ _ => some .subtract
  | .loadMultiplier _ _ => some .loadMultiplier
  | .multiplyAdd _ _ => some .multiplyAdd
  | .multiplySubtract _ _ => some .multiplySubtract
  | .transfer _ _ => some .transfer
  | .untransfer _ _ => some .untransfer
  | .collate _ _ => some .collate
  | .rightShift _ _ => some .rightShift
  | .leftShift _ _ => some .leftShift
  | .branchNonneg _ _ => some .branchNonneg
  | .branchNeg _ _ => some .branchNeg
  | .read _ _ => some .read
  | .print _ _ => some .print
  | .printCheck _ _ => some .printCheck
  | .noop _ _ => some .noop
  | .roundOff _ _ => some .roundOff
  | .halt _ _ => some .halt
  | .invalid _ _ _ => none

/-- The address field of an order. -/
def Instr.address : Instr → Addr
  | .add n _ | .subtract n _ | .loadMultiplier n _ | .multiplyAdd n _ | .multiplySubtract n _
  | .transfer n _ | .untransfer n _ | .collate n _ | .rightShift n _ | .leftShift n _
  | .branchNonneg n _ | .branchNeg n _ | .read n _ | .print n _ | .printCheck n _ | .noop n _
  | .roundOff n _ | .halt n _ | .invalid _ n _ => n

/-- The long flag of an order. -/
def Instr.long : Instr → Bool
  | .add _ l | .subtract _ l | .loadMultiplier _ l | .multiplyAdd _ l | .multiplySubtract _ l
  | .transfer _ l | .untransfer _ l | .collate _ l | .rightShift _ l | .leftShift _ l
  | .branchNonneg _ l | .branchNeg _ l | .read _ l | .print _ l | .printCheck _ l | .noop _ l
  | .roundOff _ l | .halt _ l | .invalid _ _ l => l

end Sys2Proof
end

