-- ==== Sys2Proof/WellFormed.lean ====
section
/-! DEFINITION. Well-formed function-code tables (`30_encoding.md` rule R76) and well-formed orders.
Both checks take the table as an argument: it is a parameter of the machine (`00_scope.md` rule R9). -/

namespace Sys2Proof

/-- Rule R76, first condition: the codes of the 18 operations are distinct. -/
def FnCode.distinct (fc : FnCode) : Bool :=
  decide (Operation.all.map fc.code).Nodup

/-- Rule R76: distinct codes, and nonzero codes for Right shift and Left shift. -/
def FnCode.wf (fc : FnCode) : Bool :=
  fc.distinct && fc.rightShift != 0#5 && fc.leftShift != 0#5

/-- `f` is the code of some operation, so an order with this code is not Invalid (rule R75). -/
def FnCode.assigned (fc : FnCode) (f : Code) : Bool :=
  Operation.all.any fun op => fc.code op == f

/-- A well-formed order: the fields have their widths by type, so the one thing to check is that an
Invalid order's function code belongs to no operation (rules R75 and R77). -/
def Instr.wf (fc : FnCode) : Instr → Bool
  | .invalid f _ _ => !fc.assigned f
  | .add _ _ | .subtract _ _ | .loadMultiplier _ _ | .multiplyAdd _ _ | .multiplySubtract _ _
  | .transfer _ _ | .untransfer _ _ | .collate _ _ | .rightShift _ _ | .leftShift _ _
  | .branchNonneg _ _ | .branchNeg _ _ | .read _ _ | .print _ _ | .printCheck _ _ | .noop _ _
  | .roundOff _ _ | .halt _ _ => true

end Sys2Proof
end

