-- ==== Sys2Proof/Decode.lean ====
section
/-! DEFINITION. The order format, the dispatch table, the decoder and the encoder (`30_encoding.md`
rules R70 to R79). -/

namespace Sys2Proof

/-- The default `FN_CODE` (rule R74): the EDSAC perforator codes, which the spec takes from general
knowledge. PRESUMED, unsafe: log entry 1. -/
def defaultFnCode : FnCode where
  add := 28
  subtract := 12
  loadMultiplier := 21
  multiplyAdd := 31
  multiplySubtract := 22
  transfer := 5
  untransfer := 7
  collate := 30
  rightShift := 4
  leftShift := 25
  branchNonneg := 3
  branchNeg := 27
  read := 8
  print := 9
  printCheck := 17
  noop := 26
  roundOff := 6
  halt := 13

/-- `f = w[16:12]` (rule R71). -/
def codeField (w : Word) : Code := w.extractLsb' 12 5

/-- `n = w[11:1]` (rule R71). -/
def addrField (w : Word) : Addr := w.extractLsb' 1 11

/-- `L = w[0]` (rule R71). -/
def longField (w : Word) : Bool := w.getLsbD 0

/-- `enc(f, n, L) = (f << 12) | (mask_11(n) << 1) | L` (rule R71). -/
def enc (f : Code) (n : Addr) (l : Bool) : Word :=
  (f.setWidth 17 <<< 12) ||| (n.setWidth 17 <<< 1) ||| (BitVec.ofBool l).setWidth 17

/-- The dispatch table built from `FN_CODE`: the operation of a code, none for Invalid (rule R75). -/
def dispatch (fc : FnCode) (f : Code) : Option Operation :=
  Operation.all.find? fun op => fc.code op == f

/-- The order with the given dispatch entry and fields. -/
def instrOf (op : Option Operation) (f : Code) (n : Addr) (l : Bool) : Instr :=
  match op with
  | some .add => .add n l
  | some .subtract => .subtract n l
  | some .loadMultiplier => .loadMultiplier n l
  | some .multiplyAdd => .multiplyAdd n l
  | some .multiplySubtract => .multiplySubtract n l
  | some .transfer => .transfer n l
  | some .untransfer => .untransfer n l
  | some .collate => .collate n l
  | some .rightShift => .rightShift n l
  | some .leftShift => .leftShift n l
  | some .branchNonneg => .branchNonneg n l
  | some .branchNeg => .branchNeg n l
  | some .read => .read n l
  | some .print => .print n l
  | some .printCheck => .printCheck n l
  | some .noop => .noop n l
  | some .roundOff => .roundOff n l
  | some .halt => .halt n l
  | none => .invalid f n l

/-- Why a decoder rejects. Every 17-bit word is some order (rule R79), so the one reason is the table. -/
inductive DecodeError where
  /-- The `FN_CODE` breaks rule R76: "A model refuses an FN_CODE that breaks either condition". -/
  | illFormedFnCode
deriving DecidableEq, Repr

/-- The decoder for a function-code table (rules R71, R75, R76 and R79). -/
def decodeWith (fc : FnCode) (w : Word) : Except DecodeError Instr :=
  if fc.wf then
    .ok (instrOf (dispatch fc (codeField w)) (codeField w) (addrField w) (longField w))
  else
    .error .illFormedFnCode

/-- The decoder under the default `FN_CODE`. The machine decodes with the table its state holds. -/
def decode (w : Word) : Except DecodeError Instr := decodeWith defaultFnCode w

/-- The function code of an order under a table. -/
def orderCode (fc : FnCode) : Instr → Code
  | .add _ _ => fc.add
  | .subtract _ _ => fc.subtract
  | .loadMultiplier _ _ => fc.loadMultiplier
  | .multiplyAdd _ _ => fc.multiplyAdd
  | .multiplySubtract _ _ => fc.multiplySubtract
  | .transfer _ _ => fc.transfer
  | .untransfer _ _ => fc.untransfer
  | .collate _ _ => fc.collate
  | .rightShift _ _ => fc.rightShift
  | .leftShift _ _ => fc.leftShift
  | .branchNonneg _ _ => fc.branchNonneg
  | .branchNeg _ _ => fc.branchNeg
  | .read _ _ => fc.read
  | .print _ _ => fc.print
  | .printCheck _ _ => fc.printCheck
  | .noop _ _ => fc.noop
  | .roundOff _ _ => fc.roundOff
  | .halt _ _ => fc.halt
  | .invalid f _ _ => f

/-- The encoder for a function-code table (rules R71 and R75): an order is one word (rule R78). -/
def encodeWith (fc : FnCode) (i : Instr) : Word := enc (orderCode fc i) i.address i.long

/-- The encoder under the default `FN_CODE`. -/
def encode (i : Instr) : Word := encodeWith defaultFnCode i

/-- The instruction the decoder reads from an opcode-table word: an order is one 17-bit word, so the
`nbits` bits given (those above are zero) must fit in 17. -/
def decodeTableWord (nbits w : Nat) : Option Instr :=
  if w % 2 ^ nbits < 2 ^ 17 then
    match decode (BitVec.ofNat 17 (w % 2 ^ nbits)) with
    | .ok i => some i
    | .error _ => none
  else
    none

end Sys2Proof
end

