-- ==== Sys2Proof/Machine/State.lean ====
section
/-! DEFINITION. The state of the qedsac core (`10_state.md`), its reasons to stop, and its power-on
state. All of it is plain data. -/

namespace Sys2Proof.Machine

/-- The Accumulator tank, least-significant word first (`10_state.md` rules R21 and R22). -/
structure Accumulator where
  w0 : SlotWord
  w1 : SlotWord
  w2 : SlotWord
  w3 : Word
deriving DecidableEq, Repr

/-- A two-word register, Multiplicand or Multiplier (`10_state.md` rules R21, R22, R24 and R25). -/
structure LongRegister where
  lo : SlotWord
  hi : Word
deriving DecidableEq, Repr

/-- One listed word of the store: its index and its value. The core has no bytes (`20_memory.md` rule
R50), so the cell holds a word (log entry 6). -/
abbrev Cell := Nat × Word

/-- The store: the words that are not 0, by strictly rising index; an unlisted index reads 0, the
power-on content (`10_state.md` rules R38 and R42). -/
abbrev Store := List Cell

/-- `STATE` (`10_state.md` rule R31). -/
inductive ExecState where
  | idle
  | loading
  | running
  | halted
deriving DecidableEq, Repr

/-- `CAUSE` (`10_state.md` rule R34, `60_exceptions.md` rule R211). -/
inductive Cause where
  | none
  | haltOrder
  | invalidOrder
  | tapeEnd
  | tapeError
  | operatorStop
  | operatorKill
deriving DecidableEq, Repr

/-- Which request set `STOPREQ` (`60_exceptions.md` rules R218, R222 and R225). -/
inductive StopKind where
  | stop
  | kill
deriving DecidableEq, Repr

/-- An item of `TAPE` (`45_io.md` rule R190). An invalid character carries its location for the
operator's report: line number and character code. -/
inductive TapeItem where
  | code (c : Code)
  | endOfTape
  | invalidCharacter (line char : Nat)
deriving DecidableEq, Repr

/-- The configuration surface the host may change while no run is under way (`60_exceptions.md` rule
R226, `00_scope.md` rule R9). -/
structure HostConfig where
  /-- `BOOT_REV`. -/
  bootRev : BootRev
  /-- `REALTIME`: real-time pacing. -/
  realtime : Bool
  /-- `BELL`: the audible alert on Halt. -/
  bell : Bool
  /-- `CASE_SENSITIVE`: read by the tape collaborator only. -/
  caseSensitive : Bool
deriving DecidableEq, Repr

/-- What the last step handed to the host: which entities were mutated and so notified
(`60_exceptions.md` rule R227), the stop indicator and bell of Halt (`44_control.md` rule R180) and the
report of a tape error (`45_io.md` rule R192). Neither order nor count of notifications is held: the
spec fixes neither (log entry 11). -/
structure Notices where
  accumulator : Bool := false
  multiplicand : Bool := false
  multiplier : Bool := false
  sequenceControl : Bool := false
  order : Bool := false
  /-- The notified store words, by store index, strictly rising: a write through an address of 1024 or
  above is noted under the index of the word it writes (DESIGN CHOICE, log entry 11). -/
  store : List Nat := []
  stopIndicator : Bool := false
  bell : Bool := false
  /-- The tick count, if its periodic notification was fired. -/
  tickCount : Option Nat := .none
  /-- Line and character code of the offending input. -/
  tapeReport : Option (Nat × Nat) := .none
deriving DecidableEq, Repr

/-- What the host does at one step (`60_exceptions.md` rules R221 to R226). -/
inductive HostEvent where
  /-- Nothing: the engine goes on by itself. -/
  | quiet
  /-- `start` (rule R221). -/
  | start
  /-- `stop` (rule R222). -/
  | stop
  /-- `reset` (rule R223). -/
  | reset
  /-- `step`, single-step (rule R224). -/
  | step
  /-- `kill` (rule R225). -/
  | kill
  /-- Replace the tape (rule R226). -/
  | replaceTape (items : List TapeItem)
  /-- Extend the tape (rule R226). -/
  | extendTape (items : List TapeItem)
  /-- Change the configuration surface (rule R226). -/
  | configure (c : HostConfig)
deriving DecidableEq, Repr

/-- Everything the machine holds. INVENTORY.md lists each field with its rule. -/
structure State where
  /-- `ACC`. -/
  acc : Accumulator
  /-- `MC`. -/
  mc : LongRegister
  /-- `MR`. -/
  mr : LongRegister
  /-- `SCR`, Sequence Control: the address of the next order to fetch. -/
  scr : Addr
  /-- `ORD`: the most recently fetched order. -/
  ord : Word
  /-- `STORE`. -/
  store : Store
  /-- `STATE`. -/
  status : ExecState
  /-- `WAIT`. -/
  wait : Bool
  /-- `RA`, the reset-allowed mark. -/
  ra : Bool
  /-- `CAUSE`. -/
  cause : Cause
  /-- `STOPREQ`: set iff `some`, and then which request set it. -/
  stopReq : Option StopKind
  /-- `LP`, the last-printed code. -/
  lp : Code
  /-- `TICKS`. -/
  ticks : Nat
  /-- `TAPE`: what is left of the input tape. -/
  tape : List TapeItem
  /-- The codes handed to the output sink, oldest first. -/
  output : List Code
  /-- `FN_CODE` (`00_scope.md` rule R9): a parameter of the step, which nothing changes
  (`10_state.md` rule R41, `30_encoding.md` rules R73 and R75; log entry 1). -/
  fnCode : FnCode
  /-- The period of the tick-count notification, in ticks, 0 for none: a parameter of the step, which
  nothing changes (the model's own field: log entry 18). -/
  tickPeriod : Nat
  /-- The configuration surface. -/
  config : HostConfig
  /-- The bootstrap loader's position (the model's own field: log entry 3). -/
  bootNext : Nat
  /-- What the last step handed to the host. -/
  notices : Notices
  /-- What the host will do, one entry a step (the model's own field: log entry 2). -/
  hostEvents : List HostEvent
deriving DecidableEq, Repr

/-- Why the machine stops with a fault: never. "no exceptions cross the engine boundary — every
externally visible failure is represented as a state transition plus a reported message"
(`60_exceptions.md` rule R210), so every halt is a next state (log entry 12). -/
inductive Fault where
deriving DecidableEq, Repr

/-- Why a step is refused. -/
inductive Refusal where
  /-- An order without a meaning in this model. Raised by no arm. Safe. -/
  | notModelled (mnemonic : String)
  /-- The state's `FN_CODE` breaks `30_encoding.md` rule R76, which asks a model to refuse it. Raised by
  the instruction cycle of a state with such a table; never under the default table. Safe. -/
  | illFormedFnCode
deriving DecidableEq, Repr

/-- The state at power-on, for a function-code table, a period of the tick-count notification and a value
drawn for `LP` (`10_state.md` rules R42 to R44). The configuration, the tape, the output trace, the
loader position and the host's events are the model's fields: DESIGN CHOICE, log entries 2, 3, 5, 9, 10
and 11. -/
def State.powerOn (fc : FnCode) (period : Nat) (lp : Code) : State :=
  { acc := ⟨0#18, 0#18, 0#18, 0#17⟩, mc := ⟨0#18, 0#17⟩, mr := ⟨0#18, 0#17⟩,
    scr := 0#11, ord := 0#17, store := [],
    status := .idle, wait := false, ra := false, cause := .none, stopReq := .none,
    lp := lp, ticks := 0, tape := [], output := [], fnCode := fc, tickPeriod := period,
    config := { bootRev := .one, realtime := false, bell := false, caseSensitive := false },
    bootNext := 0, notices := {}, hostEvents := [] }

/-- The machine right after power-on. The spec leaves `LP` unspecified (`10_state.md` rule R36); the
value 0 is the model's. DESIGN CHOICE, unsafe: log entry 4. The function codes are the spec's default
(`30_encoding.md` rule R74; PRESUMED, log entry 1), and the tick count is notified whenever it grows
(DESIGN CHOICE, log entry 18). -/
def State.reset : State := State.powerOn defaultFnCode 1 0#5

end Sys2Proof.Machine
end

