-- ==== Sys2Proof/Machine/Store.lean ====
section
/-! DEFINITION. The store's address mapping and its reads and writes over the canonical list
(`20_memory.md` rules R50 to R53). -/

namespace Sys2Proof.Machine

/-- `tank_index(a) = (a >> 5) & 31` (rule R52). -/
def tankIndex (a : Addr) : Nat := a.toNat / 32 % 32

/-- `tank_offset(a) = a & 31` (rule R52). -/
def tankOffset (a : Addr) : Nat := a.toNat % 32

/-- `map(a) = tank_index(a) * 32 + tank_offset(a)`: the store index of an address (rule R52). -/
def storeIndex (a : Addr) : Nat := tankIndex a * 32 + tankOffset a

/-- `STORE[k]`: an unlisted index reads 0 (`10_state.md` rule R42). -/
def Store.read : Store → Nat → Word
  | [], _ => 0#17
  | (j, w) :: rest, k => if j = k then w else Store.read rest k

/-- `STORE[k] <- v`, keeping the canonical form: writing 0 removes the entry. -/
def Store.write : Store → Nat → Word → Store
  | [], k, v => if v = 0#17 then [] else [(k, v)]
  | (j, w) :: rest, k, v =>
    if j < k then (j, w) :: Store.write rest k v
    else if j = k then (if v = 0#17 then rest else (k, v) :: rest)
    else if v = 0#17 then (j, w) :: rest
    else (k, v) :: (j, w) :: rest

/-- The canonical form from index `low` on: indices strictly rising, all below 1024, no entry 0. -/
def Store.wfFrom (low : Nat) : Store → Bool
  | [] => true
  | (j, w) :: rest => decide (low ≤ j) && decide (j < 1024) && w != 0#17 && Store.wfFrom (j + 1) rest

/-- The canonical form of the store. -/
def Store.wf (m : Store) : Bool := Store.wfFrom 0 m

/-- A rising list of store indices with one more in it. -/
def noteIndex (k : Nat) : List Nat → List Nat
  | [] => [k]
  | j :: rest => if k < j then k :: j :: rest else if k = j then j :: rest else j :: noteIndex k rest

end Sys2Proof.Machine
end

