-- ==== Sys2Proof/Machine/Ops.lean ====
section
/-! DEFINITION. The named operations over registers, store, tape and output (`10_state.md` section 2,
`00_scope.md` rules R13 and R14), and the one exceptional mechanism: raising a halt, with the resumption
beside it (`60_exceptions.md` rules R213 and R223). Every write of an entity also notes its
notification (rule R227). -/

namespace Sys2Proof.Machine

/-- `compose_long(low, high) = (high << 18) | low` (`00_scope.md` rule R13). -/
def composeLong (low : SlotWord) (high : Word) : LongWord := high ++ low

/-- The low word of `split_long(v)`: `v[17:0]` (`00_scope.md` rule R13). -/
def lowHalf (v : LongWord) : SlotWord := v.extractLsb' 0 18

/-- The high word of `split_long(v)`: `v[34:18]` (`00_scope.md` rule R13). -/
def highHalf (v : LongWord) : Word := v.extractLsb' 18 17

/-- The composed value of a two-word register (`10_state.md` rules R24 and R25). -/
def LongRegister.value (r : LongRegister) : LongWord := composeLong r.lo r.hi

/-- A two-word register with a composed value (`10_state.md` rule R26). -/
def LongRegister.ofValue (v : LongWord) : LongRegister := ⟨lowHalf v, highHalf v⟩

/-- `ACC`: the composed 71-bit value (`10_state.md` rule R23). -/
def Accumulator.value (a : Accumulator) : AccWord := a.w3 ++ a.w2 ++ a.w1 ++ a.w0

/-- `P`, the accumulator proper `ACC[70:36]` (`10_state.md` rule R23). -/
def Accumulator.proper (a : Accumulator) : LongWord := composeLong a.w2 a.w3

/-- The Accumulator with a composed value (`10_state.md` rule R26). -/
def Accumulator.ofValue (v : AccWord) : Accumulator :=
  ⟨v.extractLsb' 0 18, v.extractLsb' 18 18, v.extractLsb' 36 18, v.extractLsb' 54 17⟩

/-- `ACC <- v` (`10_state.md` rule R26). -/
def State.setAcc (s : State) (v : AccWord) : State :=
  { s with acc := Accumulator.ofValue v, notices := { s.notices with accumulator := true } }

/-- Writes the two words of the accumulator proper; the working words stay (`10_state.md` rule R26). -/
def State.setProperWords (s : State) (w2 : SlotWord) (w3 : Word) : State :=
  { s with acc := { s.acc with w2 := w2, w3 := w3 },
           notices := { s.notices with accumulator := true } }

/-- `MC <- v` (`10_state.md` rule R26). -/
def State.setMc (s : State) (v : LongWord) : State :=
  { s with mc := LongRegister.ofValue v, notices := { s.notices with multiplicand := true } }

/-- `MR <- v` (`10_state.md` rule R26). -/
def State.setMr (s : State) (v : LongWord) : State :=
  { s with mr := LongRegister.ofValue v, notices := { s.notices with multiplier := true } }

/-- `SCR <- a` (`10_state.md` rule R27). -/
def State.setScr (s : State) (a : Addr) : State :=
  { s with scr := a, notices := { s.notices with sequenceControl := true } }

/-- `ORD <- w` (`10_state.md` rule R28). -/
def State.setOrd (s : State) (w : Word) : State :=
  { s with ord := w, notices := { s.notices with order := true } }

/-- `MemRead(a, 1)` (`00_scope.md` rule R14, `20_memory.md` rule R52). -/
def State.memRead (s : State) (a : Addr) : Word := s.store.read (storeIndex a)

/-- `MemWrite(a, 1, v)`: the value is masked to 17 bits (`20_memory.md` rule R52). The notification names
the store index and not the 11-bit address, which the spec leaves open (DESIGN CHOICE, log entry 11). -/
def State.memWrite {w : Nat} (s : State) (a : Addr) (v : BitVec w) : State :=
  { s with store := s.store.write (storeIndex a) (v.setWidth 17),
           notices := { s.notices with store := noteIndex (storeIndex a) s.notices.store } }

/-- `TapeNext()`: the next item, and the tape afterwards. At the end of the tape it keeps answering
`endOfTape` and the tape stays (`45_io.md` rule R190; an explicit end item: log entry 9). -/
def tapeNext : List TapeItem → TapeItem × List TapeItem
  | [] => (.endOfTape, [])
  | .endOfTape :: rest => (.endOfTape, .endOfTape :: rest)
  | .code c :: rest => (.code c, rest)
  | .invalidCharacter line char :: rest => (.invalidCharacter line char, rest)

/-- The items before the first end of tape: what is left to read. -/
def tapeReadable : List TapeItem → List TapeItem
  | [] => []
  | .endOfTape :: _ => []
  | .code c :: rest => .code c :: tapeReadable rest
  | .invalidCharacter line char :: rest => .invalidCharacter line char :: tapeReadable rest

/-- `Emit(c)` appends to the output trace (`45_io.md` rule R191). -/
def State.emit (s : State) (c : Code) : State := { s with output := s.output ++ [c] }

/-- The tick-count notification of a growth of `TICKS` (`60_exceptions.md` rule R227): the new count, if
the growth reaches or passes a multiple of the period (log entry 18). -/
def tickNotice (period old new : Nat) : Option Nat :=
  if old / period = new / period then .none else some new

/-- `TICKS <- TICKS + k` (`10_state.md` rule R37), with its notification. -/
def State.addTicks (s : State) (k : Nat) : State :=
  { s with ticks := s.ticks + k,
           notices := { s.notices with tickCount := tickNotice s.tickPeriod s.ticks (s.ticks + k) } }

/-- The numeric cause code (`60_exceptions.md` rule R211). -/
def causeCode : Cause → Nat
  | .none => 0
  | .haltOrder => 1
  | .invalidOrder => 2
  | .tapeEnd => 3
  | .tapeError => 4
  | .operatorStop => 5
  | .operatorKill => 6

/-- The reset-allowed mark a cause leaves (`60_exceptions.md` rule R211); `none` leaves none and is
never raised. -/
def resetAllowed : Cause → Bool
  | .none => false
  | .haltOrder => true
  | .invalidOrder => false
  | .tapeEnd => true
  | .tapeError => false
  | .operatorStop => true
  | .operatorKill => true

/-- `raise Halt(cause)` (`60_exceptions.md` rule R213), the core's only exceptional mechanism; the run
loop's own halt at a stop request writes the same four (rule R218). -/
def State.raiseHalt (s : State) (c : Cause) : State :=
  { s with status := .halted, ra := resetAllowed c, cause := c, stopReq := .none }

/-- The resumption of a halted run: what a permitted `reset` writes (`60_exceptions.md` rule R223,
`70_reset_and_hazards.md` rule R245). -/
def State.resume (s : State) : State := { s with cause := .none, status := .running }

end Sys2Proof.Machine
end

