-- ==== Sys2Proof/Machine/Bootstrap.lean ====
section
/-! DEFINITION. `start` and the bootstrap loader (`70_reset_and_hazards.md` rules R241 to R244). The
loader writes one word a step, so that a stop or kill can arrive while it loads (`60_exceptions.md` rule
R222; log entry 3). -/

namespace Sys2Proof.Machine

/-- The length of the active initial orders (rule R242). -/
def State.ordersLength (s : State) : Nat := (Config.initialOrdersLength s.config.bootRev).val

/-- `INITIAL_ORDERS(rev)` as a list (rule R242). -/
def initialOrders (rev : BootRev) : List Word :=
  (List.range (Config.initialOrdersLength rev).val).map (Config.initialOrderWord rev)

/-- Every tank zeroed: registers and store (rules R241 and R244). -/
def State.clearTanks (s : State) : State :=
  { (((((s.setAcc 0#71).setMc 0#35).setMr 0#35).setScr 0#11).setOrd 0#17) with
    store := []
    notices := { s.notices with
      accumulator := true, multiplicand := true, multiplier := true, sequenceControl := true,
      order := true, store := List.range 1024 } }

/-- What a permitted `start` does before the first word is loaded (`60_exceptions.md` rule R221, rule
R241): `LP` and `TICKS` stay (rule R244). -/
def State.beginLoading (s : State) : State :=
  let t := { s with cause := .none, stopReq := .none, status := .loading, bootNext := 0 }
  if Config.startClears then t.clearTanks else t

/-- One step of the loader: the next word is written at its address and costs 1000 ticks; after the last
one `SCR <- 0` and the run begins (rules R241 and R243). -/
def State.loadStep (s : State) : State :=
  if s.bootNext < s.ordersLength then
    let t := s.memWrite (BitVec.ofNat 11 s.bootNext)
      (Config.initialOrderWord s.config.bootRev s.bootNext)
    { t.addTicks 1000 with bootNext := s.bootNext + 1 }
  else
    { s.setScr 0#11 with status := .running }

end Sys2Proof.Machine
end

