-- ==== Sys2Proof/Machine/Operands.lean ====
section
/-! DEFINITION. The operand forms (`30_encoding.md` rule R72): the store operand with its address
adjustment, the Print address and the shift control word. A branch target is the address field itself
(rule R72). -/

namespace Sys2Proof.Machine

/-- `adj(n, L)`: a long operand's address has its low bit cleared (`40_add_subtract.md` rule R100). -/
def adj (n : Addr) (l : Bool) : Addr := if l then n &&& 0x7FE#11 else n

/-- `LongRead(e)` (`20_memory.md` rule R55). -/
def State.longRead (s : State) (e : Addr) : LongWord :=
  composeLong ((s.memRead e).setWidth 18) (s.memRead (e + 1#11))

/-- `LongWrite(e, lo, hi)` (`20_memory.md` rule R56): the sandwich bit is lost. -/
def State.longWrite (s : State) (e : Addr) (lo : SlotWord) (hi : Word) : State :=
  (s.memWrite e lo).memWrite (e + 1#11) hi

/-- `Operand(n, L)`: a short operand is the high register word (`40_add_subtract.md` rule R101,
decision D2 of `92_eei_decisions.md`). -/
def operand (s : State) (n : Addr) (l : Bool) : LongWord :=
  if l then s.longRead (adj n true) else composeLong 0#18 (s.memRead n)

/-- `PrintAddr(n, L)` (`45_io.md` rule R196). -/
def printAddr (n : Addr) (l : Bool) : Addr :=
  if l then
    match Config.printLongAddr with
    | .even => adj n true
    | .odd => adj n true + 1#11
  else n

/-- The number of trailing zero bits of a number, among its low `bits` bits. -/
def trailingZeros : Nat → Nat → Nat
  | 0, _ => 0
  | bits + 1, v => if v % 2 = 1 then 0 else trailingZeros bits (v / 2) + 1

/-- `shift_length(cw) = ctz(cw) + 1` (`43_shift.md` rule R150). -/
def shiftLength (cw : Word) : Nat := trailingZeros 17 cw.toNat + 1

/-- The shift count of an order: its control word is the order word rebuilt from its fields
(`43_shift.md` rule R150). -/
def shiftCount (f : Code) (n : Addr) (l : Bool) : Nat := shiftLength (enc f n l)

end Sys2Proof.Machine
end

