-- ==== Sys2Proof/Machine/Adder.lean ====
section
/-! DEFINITION. The adder family: Add, Subtract, Collate, Round-off (`40_add_subtract.md`). -/

namespace Sys2Proof.Machine

/-- `AddP(v)`: the word-level carry chain into the accumulator proper (rule R102). -/
def State.addP (s : State) (v : LongWord) : State :=
  let t := s.acc.w2.toNat + (lowHalf v).toNat
  s.setProperWords (BitVec.ofNat 18 t)
    (BitVec.ofNat 17 (s.acc.w3.toNat + (highHalf v).toNat + t / 2 ^ 18))

/-- `SubP(v)`: the word-level borrow chain (rule R103). -/
def State.subP (s : State) (v : LongWord) : State :=
  let t : Int := (s.acc.w2.toNat : Int) - ((lowHalf v).toNat : Int)
  let b : Int := if t < 0 then 1 else 0
  s.setProperWords (BitVec.ofInt 18 t)
    (BitVec.ofInt 17 ((s.acc.w3.toNat : Int) - ((highHalf v).toNat : Int) - b))

/-- A: Add (rule R105). -/
def execAdd (n : Addr) (l : Bool) (s : State) : Host.Outcome State Fault Refusal :=
  let v := operand s n l
  .next ((s.setMc v).addP v)

/-- S: Subtract (rule R106). -/
def execSubtract (n : Addr) (l : Bool) (s : State) : Host.Outcome State Fault Refusal :=
  let v := operand s n l
  .next ((s.setMc v).subP v)

/-- C: Collate; `MC` is not written (rule R107, decision D4). -/
def execCollate (n : Addr) (l : Bool) (s : State) : Host.Outcome State Fault Refusal :=
  .next (s.addP (operand s n l &&& s.mr.value))

/-- Y: Round-off, `ACC <- mask_71(ACC + 2^35)` (rule R108, decision D7). -/
def execRoundOff (s : State) : Host.Outcome State Fault Refusal :=
  .next (s.setAcc (s.acc.value + 0x800000000#71))

end Sys2Proof.Machine
end

