-- ==== Sys2Proof/Machine/Flags.lean ====
section
/-! DEFINITION. The core has no flags: "The only condition any instruction tests is the Accumulator
sign bit `ACC[70]`" (`10_state.md` rule R30). -/

namespace Sys2Proof.Machine

/-- The sign bit of the Accumulator, `ACC[70] = ACC.w[3][16]` (`10_state.md` rules R23 and R30). -/
def accNegative (s : State) : Bool := s.acc.w3.getLsbD 16

end Sys2Proof.Machine
end

