-- ==== Sys2Proof/Machine/Control.lean ====
section
/-! DEFINITION. Branches, No-op, Halt and Invalid (`44_control.md`). Each runs after the fetch has
incremented `SCR`. -/

namespace Sys2Proof.Machine

/-- E: Branch if non-negative; the target is not adjusted (rule R170, decision D19). -/
def execBranchNonneg (n : Addr) (s : State) : Host.Outcome State Fault Refusal :=
  .next (if accNegative s then s else s.setScr n)

/-- G: Branch if negative; the target is not adjusted (rule R171, decision D19). -/
def execBranchNeg (n : Addr) (s : State) : Host.Outcome State Fault Refusal :=
  .next (if accNegative s then s.setScr n else s)

/-- X: No-op (rule R174). -/
def execNoop (s : State) : Host.Outcome State Fault Refusal := .next s

/-- Z: Halt, with the stop indicator requested on and the bell if the `BELL` option is on
(rule R180). -/
def execHalt (s : State) : Host.Outcome State Fault Refusal :=
  .next ({ s with notices := { s.notices with stopIndicator := true,
                                              bell := s.config.bell } }.raiseHalt .haltOrder)

/-- Invalid (rule R181). -/
def execInvalid (s : State) : Host.Outcome State Fault Refusal := .next (s.raiseHalt .invalidOrder)

end Sys2Proof.Machine
end

