-- ==== Sys2Proof/Machine/InputOutput.lean ====
section
/-! DEFINITION. Read, Print and Print-check (`45_io.md`). -/

namespace Sys2Proof.Machine

/-- The failure of a Read: `SCR` goes back to the Read itself, then the halt (rules R192 and R193). -/
def State.failRead (s : State) (c : Cause) : State := (s.setScr (s.scr - 1#11)).raiseHalt c

/-- I: Read; one word, the code in bits 4:0 (rule R192, decision D8). -/
def execRead (n : Addr) (l : Bool) (s : State) : Host.Outcome State Fault Refusal :=
  let s' := { s with tape := (tapeNext s.tape).2 }
  match (tapeNext s.tape).1 with
  | .code c => .next (s'.memWrite (adj n l) c)
  | .endOfTape => .next (s'.failRead .tapeEnd)
  | .invalidCharacter line char =>
    .next ({ s' with notices := { s'.notices with tapeReport := some (line, char) } }.failRead
      .tapeError)

/-- O: Print; emits the top five bits of the word and remembers them (rules R195 and R196). -/
def execPrint (n : Addr) (l : Bool) (s : State) : Host.Outcome State Fault Refusal :=
  let c := codeField (s.memRead (printAddr n l))
  .next { s.emit c with lp := c }

/-- F: Print-check; one word, the code in bits 16:12 (rule R197, decision D10). -/
def execPrintCheck (n : Addr) (l : Bool) (s : State) : Host.Outcome State Fault Refusal :=
  .next (s.memWrite (adj n l) (s.lp.setWidth 17 <<< 12))

end Sys2Proof.Machine
end

