-- ==== Sys2Proof/Machine/Multiplier.lean ====
section
/-! DEFINITION. The multiplier: Load multiplier, Multiply-add, Multiply-subtract, and the serial
algorithm the source describes (`41_multiply.md`). -/

namespace Sys2Proof.Machine

/-- `Prod(MC, MR) = 4 * sext_35(MC) * sext_35(MR)`, exact (rule R120). -/
def product (mc mr : LongWord) : Int := 4 * mc.toInt * mr.toInt

/-- The closed form of the multiplier: the product is added (`sub = false`) or subtracted, and `MC` is
cleared; `MR` stays (rules R121, R123 and R124, decision D3). -/
def State.multiply (s : State) (sub : Bool) : State :=
  let p := product s.mc.value s.mr.value
  let acc : Int := (s.acc.value.toNat : Int)
  (s.setAcc (BitVec.ofInt 71 (if sub then acc - p else acc + p))).setMc 0#35

/-- One iteration of the serial algorithm: add or subtract the shifted multiplier if bit `i` of the
multiplicand's magnitude is set, then shift it (rule R121). -/
def serialIteration (neg : Bool) (mu : Nat) (p : AccWord × Nat) (i : Nat) : AccWord × Nat :=
  let x : AccWord := BitVec.ofNat 71 p.2
  (if mu.testBit i then (if neg then p.1 - x else p.1 + x) else p.1, p.2 * 2)

/-- `SerialMul(sub)`: the 35-iteration shift-and-add multiplier (rule R121). -/
def State.serialMultiply (s : State) (sub : Bool) : State :=
  let m := s.mc.value.toInt
  let r := s.mr.value.toInt
  let neg := sub ^^ decide (m < 0) ^^ decide (r < 0)
  let out := (List.range 35).foldl (serialIteration neg m.natAbs) (s.acc.value, r.natAbs * 4)
  (s.setAcc out.1).setMc 0#35

/-- H: Load multiplier (rule R122). -/
def execLoadMultiplier (n : Addr) (l : Bool) (s : State) : Host.Outcome State Fault Refusal :=
  .next (s.setMr (operand s n l))

/-- V: Multiply-add (rule R123). -/
def execMultiplyAdd (n : Addr) (l : Bool) (s : State) : Host.Outcome State Fault Refusal :=
  .next ((s.setMc (operand s n l)).multiply false)

/-- N: Multiply-subtract (rule R124). -/
def execMultiplySubtract (n : Addr) (l : Bool) (s : State) : Host.Outcome State Fault Refusal :=
  .next ((s.setMc (operand s n l)).multiply true)

end Sys2Proof.Machine
end

