-- ==== Sys2Proof/Machine/Shifter.lean ====
section
/-! DEFINITION. The shifter (`43_shift.md`). -/

namespace Sys2Proof.Machine

/-- R: Right shift, `ACC <- asr_71(ACC, k)` (rule R152, decision D6). The function code of the control
word is the state's own (`30_encoding.md` rule R82). -/
def execRightShift (n : Addr) (l : Bool) (s : State) : Host.Outcome State Fault Refusal :=
  .next (s.setAcc (s.acc.value.sshiftRight (shiftCount s.fnCode.rightShift n l)))

/-- L: Left shift, `ACC <- mask_71(ACC << k)` (rule R153, decision D6), the control word likewise. -/
def execLeftShift (n : Addr) (l : Bool) (s : State) : Host.Outcome State Fault Refusal :=
  .next (s.setAcc (s.acc.value <<< shiftCount s.fnCode.leftShift n l))

end Sys2Proof.Machine
end

