-- ==== Sys2Proof/Machine/Transfer.lean ====
section
/-! DEFINITION. Transfers to store (`42_transfer.md`). -/

namespace Sys2Proof.Machine

/-- Writes the accumulator proper to the store: its high word (short) or both words (long)
(rules R140 and R141). -/
def State.storeProper (s : State) (n : Addr) (l : Bool) : State :=
  if l then s.longWrite (adj n true) s.acc.w2 s.acc.w3 else s.memWrite n s.acc.w3

/-- T: Transfer-clearing; all four words of `ACC` are cleared (rule R140, decision D5). -/
def execTransfer (n : Addr) (l : Bool) (s : State) : Host.Outcome State Fault Refusal :=
  .next ((s.storeProper n l).setAcc 0#71)

/-- U: Un-transfer (rule R141). -/
def execUntransfer (n : Addr) (l : Bool) (s : State) : Host.Outcome State Fault Refusal :=
  .next (s.storeProper n l)

end Sys2Proof.Machine
end

