-- ==== Sys2Proof/Machine/Dispatch.lean ====
section
/-! DEFINITION. `execute(op, f, n, L)`, step 5 of the instruction cycle (`30_encoding.md` rule R80):
one arm per order. -/

namespace Sys2Proof.Machine

def exec (i : Instr) (s : State) : Host.Outcome State Fault Refusal :=
  match i with
  | .add n l => Sys2Proof.Machine.execAdd n l s
  | .subtract n l => Sys2Proof.Machine.execSubtract n l s
  | .loadMultiplier n l => Sys2Proof.Machine.execLoadMultiplier n l s
  | .multiplyAdd n l => Sys2Proof.Machine.execMultiplyAdd n l s
  | .multiplySubtract n l => Sys2Proof.Machine.execMultiplySubtract n l s
  | .transfer n l => Sys2Proof.Machine.execTransfer n l s
  | .untransfer n l => Sys2Proof.Machine.execUntransfer n l s
  | .collate n l => Sys2Proof.Machine.execCollate n l s
  | .rightShift n l => Sys2Proof.Machine.execRightShift n l s
  | .leftShift n l => Sys2Proof.Machine.execLeftShift n l s
  | .branchNonneg n _ => Sys2Proof.Machine.execBranchNonneg n s
  | .branchNeg n _ => Sys2Proof.Machine.execBranchNeg n s
  | .read n l => Sys2Proof.Machine.execRead n l s
  | .print n l => Sys2Proof.Machine.execPrint n l s
  | .printCheck n l => Sys2Proof.Machine.execPrintCheck n l s
  | .noop _ _ => Sys2Proof.Machine.execNoop s
  | .roundOff _ _ => Sys2Proof.Machine.execRoundOff s
  | .halt _ _ => Sys2Proof.Machine.execHalt s
  | .invalid _ _ _ => Sys2Proof.Machine.execInvalid s

end Sys2Proof.Machine
end

