-- ==== Sys2Proof/Machine/Cycle.lean ====
section
/-! DEFINITION. The instruction cycle (`30_encoding.md` rule R80) and the tick costs
(`70_reset_and_hazards.md` rule R250). -/

namespace Sys2Proof.Machine

/-- `COST[f]`, indexed by function code (`70_reset_and_hazards.md` rule R250). -/
def tickCost (fc : FnCode) (f : Code) : Nat :=
  match dispatch fc f with
  | some .multiplyAdd => 60
  | some .multiplySubtract => 60
  | some .read => 215
  | some .print => 1515
  | _ => 15

/-- The word the cycle fetches (rule R80, step 1). -/
def State.fetchWord (s : State) : Word := s.memRead s.scr

/-- The state after the fetch: `SCR` incremented modulo `2^11`, `ORD` the fetched word (rule R80,
step 1). -/
def State.fetch (s : State) : State := (s.setScr (s.scr + 1#11)).setOrd s.fetchWord

/-- What the decoder reads from the fetched word under the state's `FN_CODE`: the order the next cycle
runs (rule R80, steps 2 and 3). -/
def State.nextOrder (s : State) : Except DecodeError Instr := decodeWith s.fnCode s.fetchWord

/-- `COST[f]` of the fetched word under the state's `FN_CODE`. -/
def State.nextCost (s : State) : Nat := tickCost s.fnCode (codeField s.fetchWord)

/-- Step 6 of the cycle: the order's cost is added; with real-time pacing on the cycle then waits
(`WAIT`, rule R80 steps 4 and 7, `70_reset_and_hazards.md` rule R255; log entry 16). -/
def State.charge (s : State) (cost : Nat) : State :=
  { s.addTicks cost with wait := s.config.realtime }

/-- `cycle()`: fetch, decode, execute, time (rule R80). -/
def cycle (s : State) : Host.Outcome State Fault Refusal :=
  match s.nextOrder with
  | .error .illFormedFnCode => .refused .illFormedFnCode
  | .ok i =>
    match exec i s.fetch with
    | .next t => .next (t.charge s.nextCost)
    | .fault r => .fault r
    | .refused r => .refused r

end Sys2Proof.Machine
end

