-- ==== Sys2Proof/Machine/Engine.lean ====
section
/-! DEFINITION. The run loop and the host operations (`60_exceptions.md` sections 2 and 3). A host
operation that is not permitted has no effect (rule R219). -/

namespace Sys2Proof.Machine

/-- The cause a pending request halts with (rule R218). -/
def stopCause : StopKind → Cause
  | .stop => .operatorStop
  | .kill => .operatorKill

/-- What the engine does by itself in one step: end a pacing wait (log entry 16), load a word, honour a
pending stop, or run one cycle (rule R218). In `idle` and `halted` it waits for the host (rule R233). -/
def engineStep (s : State) : Host.Outcome State Fault Refusal :=
  if s.wait then .next { s with wait := false }
  else
    match s.status with
    | .idle => .next s
    | .halted => .next s
    | .loading => .next s.loadStep
    | .running =>
      match s.stopReq with
      | some k => .next (s.raiseHalt (stopCause k))
      | none => cycle s

/-- The engine is at rest, so the host may act on it: `idle` or `halted`. -/
def State.atRest (s : State) : Bool := s.status == .idle || s.status == .halted

/-- A run is under way, so a stop or kill is permitted: `running` or `loading` (rule R222, decision
D17). -/
def State.underWay (s : State) : Bool := s.status == .running || s.status == .loading

/-- `start` (rule R221), not while the engine is still waiting (`70_reset_and_hazards.md` rule R258; log
entry 15). -/
def State.hostStart (s : State) : State :=
  if s.atRest && !s.wait then s.beginLoading else s

/-- Which request is pending after a `stop`: a stop, but for one requested while a kill is pending, which
the spec leaves open (log entry 14). -/
def stopAfter : Option StopKind → StopKind
  | some .kill => if Config.stopReplacesKill then .stop else .kill
  | some .stop => .stop
  | none => .stop

/-- `stop` (rule R222). -/
def State.hostStop (s : State) : State :=
  if s.underWay then { s with stopReq := some (stopAfter s.stopReq) } else s

/-- `kill` (rule R225): it also ends a pacing wait. -/
def State.hostKill (s : State) : State :=
  if s.underWay then { s with stopReq := some .kill, wait := false } else { s with wait := false }

/-- `reset` and `step` are permitted when halted with reset allowed (rules R223 and R224), not while
the engine is still waiting (`70_reset_and_hazards.md` rule R258; log entry 15). -/
def State.mayResume (s : State) : Bool := s.status == .halted && s.ra && !s.wait

/-- `reset` (rule R223, `70_reset_and_hazards.md` rule R245). -/
def State.hostReset (s : State) : State := if s.mayResume then s.resume else s

/-- The host's operation, applied between instructions; `step` runs one cycle with the state left
`halted` (rule R224); tape and configuration change only at rest (rule R226; log entry 13). -/
def hostAct (e : HostEvent) (s : State) : Host.Outcome State Fault Refusal :=
  match e with
  | .quiet => engineStep s
  | .start => .next s.hostStart
  | .stop => .next s.hostStop
  | .reset => .next s.hostReset
  | .step => if s.mayResume then cycle s else .next s
  | .kill => .next s.hostKill
  | .replaceTape items => .next (if s.atRest then { s with tape := items } else s)
  | .extendTape items =>
    .next (if s.atRest then { s with tape := tapeReadable s.tape ++ items } else s)
  | .configure c => .next (if s.atRest then { s with config := c } else s)

/-- One step of the machine: the notices of the step before are gone, and either the host's next event
or, with none left, the engine itself acts (log entry 2). -/
def advance (s : State) : Host.Outcome State Fault Refusal :=
  match s.hostEvents with
  | [] => engineStep { s with notices := {} }
  | e :: rest => hostAct e { s with notices := {}, hostEvents := rest }

end Sys2Proof.Machine
end

