-- ==== Sys2Proof/Machine/Step.lean ====
section
/-! DEFINITION. The step function, and the placing of an order where the next step fetches it. -/

namespace Sys2Proof.Machine

/-- One step of the machine. -/
def step (s : State) : Host.Outcome State Fault Refusal := advance s

/-- `s` with an order stored at the address of the next fetch and the engine running, so that the very
next step fetches and runs it: the launch state of `70_reset_and_hazards.md` rule R247 for a program of
that one word, `CAUSE = none` included (how a program comes to run from reset: log entry 2). -/
def State.withFetchWord (s : State) (nbits w : Nat) : State :=
  { s with
    store := s.store.write (storeIndex s.scr) (BitVec.ofNat 17 (w % 2 ^ nbits))
    status := .running, cause := .none, wait := false, stopReq := .none, hostEvents := [] }

end Sys2Proof.Machine
end

