-- ==== Sys2Proof/Safety.lean ====
section
/-! DEFINITION. The terms the statements use: the launch premise, when a step runs an order or loads a
word, and what is true of every state the machine can be in. -/

namespace Sys2Proof.Machine

/-- The engine's next step runs an order: the function-code table is one that `30_encoding.md` rule R76
admits, the engine is running, no request is pending, no pacing wait is open, and the host does
nothing. -/
structure ReadyToCycle (s : State) : Prop where
  tableAdmitted : s.fnCode.wf = true
  running : s.status = .running
  noRequest : s.stopReq = none
  noWait : s.wait = false
  hostSilent : s.hostEvents = []

/-- A program of consecutive words from an address on: each word with its address. -/
def programAt : Addr → List Word → List (Addr × Word)
  | _, [] => []
  | a, w :: rest => (a, w) :: programAt (a + 1#11) rest

/-- The launch premise of `70_reset_and_hazards.md` rule R247, for a program and for what a claim's
precondition says of the registers and store words that the program reads before writing; `LP` is free
unless the precondition fixes it. A host that does nothing: log entry 2. -/
structure CleanLaunch (program : List (Addr × Word)) (precondition : State → Prop) (s : State) : Prop
    extends ReadyToCycle s where
  noCause : s.cause = .none
  programLoaded : ∀ e ∈ program, s.memRead e.1 = e.2
  preconditionHolds : precondition s

/-- The host leaves this step to the engine. -/
def hostQuiet (s : State) : Bool :=
  match s.hostEvents with
  | [] => true
  | .quiet :: _ => true
  | _ => false

/-- The host asks for a single step. -/
def hostAsksStep (s : State) : Bool :=
  match s.hostEvents with
  | .step :: _ => true
  | _ => false

/-- This step runs one instruction cycle: in the run loop (`60_exceptions.md` rule R218) or as a
permitted single step (rule R224). -/
def runsCycle (s : State) : Bool :=
  (hostQuiet s && !s.wait && s.status == .running && s.stopReq.isNone) ||
    (hostAsksStep s && s.mayResume)

/-- This step loads one word of the initial orders (`70_reset_and_hazards.md` rule R241). -/
def loadsWord (s : State) : Bool :=
  hostQuiet s && !s.wait && s.status == .loading && decide (s.bootNext < s.ordersLength)

/-- The halt that an order raises, if it does, with what is left of the tape (`60_exceptions.md` rules
R211 and R215): Z, Invalid, or a Read that fails. -/
def raisedCause (i : Instr) (tape : List TapeItem) : Option Cause :=
  match i.operation with
  | some .halt => some .haltOrder
  | none => some .invalidOrder
  | some .read =>
    match (tapeNext tape).1 with
    | .code _ => none
    | .endOfTape => some .tapeEnd
    | .invalidCharacter _ _ => some .tapeError
  | some _ => none

/-- `k` steps, stopping at the first fault or refusal: `Host.Core.run` of this machine, over its own
types (`runSteps_eq_core_run`). -/
def runSteps : Nat → State → Host.Outcome State Fault Refusal
  | 0, s => .next s
  | k + 1, s =>
    match step s with
    | .next t => runSteps k t
    | .fault r => .fault r
    | .refused r => .refused r

/-- What holds of every state the machine reaches: the function-code table is one that `30_encoding.md`
rule R76 admits; the store is canonical (log entry 6); a pacing wait follows an order (`10_state.md` rule
R32), so that none is open in `idle` and `loading` (log entries 15 and 16); a request is pending only
while a run is under way, and a halt discards it (`60_exceptions.md` rules R213 and R222); a cause stands
exactly while halted, with its reset-allowed mark (rules R211, R221 and R223); before the first run
nothing allows a reset (`10_state.md` rule R43); the loader stays inside its list (log entry 3). -/
structure Consistent (s : State) : Prop where
  tableAdmitted : s.fnCode.wf = true
  storeCanonical : s.store.wf = true
  waitAfterOrder : s.wait = true → s.status = .running ∨ s.status = .halted
  requestUnderWay : s.stopReq ≠ none → s.status = .running ∨ s.status = .loading
  causeIffHalted : s.cause ≠ .none ↔ s.status = .halted
  markOfCause : s.status = .halted → s.ra = resetAllowed s.cause
  idleNotAllowed : s.status = .idle → s.ra = false
  loaderInRange : s.status = .loading → s.bootNext ≤ s.ordersLength

end Sys2Proof.Machine
end

