-- ==== Sys2Proof/Certificates/Slice0/Obligations.lean ====
section
/-! DEFINITION. The statements for the provers. Each says in its docstring which rule of the spec it
formalises; where a clause rests on a decision of the spec (`92_eei_decisions.md`) or on a choice of the
model, the docstring names it. A frame is written `t = { s with … }`: every field not listed, the store
among them, is as before. -/

open Sys2Proof Sys2Proof.Machine

/-! ### Encoding -/

/-- Rule R71: the three fields of an order word, and the word of three fields; each is the inverse of the
other. -/
def Obligations.OrderFieldsAndWord : Prop :=
  (∀ w : Word, (longField w).toNat = w.toNat % 2 ∧ (addrField w).toNat = w.toNat / 2 % 2 ^ 11 ∧
    (codeField w).toNat = w.toNat / 2 ^ 12 ∧ enc (codeField w) (addrField w) (longField w) = w) ∧
  ∀ (f : Code) (n : Addr) (l : Bool),
    (enc f n l).toNat = f.toNat * 2 ^ 12 + n.toNat * 2 + l.toNat ∧
    codeField (enc f n l) = f ∧ addrField (enc f n l) = n ∧ longField (enc f n l) = l

/-- Rules R71, R75 and R76: under every function-code table the decoder accepts, decoding the word of a
well-formed order gives the order back, every operand at every value. -/
def Obligations.DecodeOfEncodeIsTheOrder : Prop :=
  ∀ fc : FnCode, fc.wf = true → ∀ i : Instr, i.wf fc = true →
    decodeWith fc (encodeWith fc i) = .ok i

/-- Rule R79: the decoder is total; every word is the word of exactly one well-formed order, and of the
operation `DISPATCH[f]` of its code (rule R75). -/
def Obligations.EveryWordIsOneOrder : Prop :=
  ∀ fc : FnCode, fc.wf = true → ∀ w : Word, ∃ i : Instr,
    decodeWith fc w = .ok i ∧ i.wf fc = true ∧ encodeWith fc i = w ∧
    i.operation = dispatch fc (codeField w) ∧
    ∀ j : Instr, j.wf fc = true → encodeWith fc j = w → j = i

/-- Rule R76 (derived; "A model refuses an FN_CODE that breaks either condition"): the decoder refuses
exactly the tables whose codes are not distinct or whose Right shift or Left shift code is zero. -/
def Obligations.IllFormedTableIsRefused : Prop :=
  ∀ (fc : FnCode) (w : Word), decodeWith fc w = .error .illFormedFnCode ↔
    ¬ (Function.Injective fc.code ∧ fc.rightShift ≠ 0#5 ∧ fc.leftShift ≠ 0#5)

/-- Rule R75: `DISPATCH[FN_CODE(op)] = op` for each of the 18 operations and Invalid for every other
code; under the default table (rule R74, log entry 1) the 14 Invalid codes are the ones listed; and no
order or host operation changes the table. -/
def Obligations.DispatchTableEntries : Prop :=
  (∀ fc : FnCode, fc.wf = true →
    (∀ op : Operation, dispatch fc (fc.code op) = some op) ∧
    ∀ f : Code, (∀ op : Operation, fc.code op ≠ f) → dispatch fc f = none) ∧
  (∀ f : Code, dispatch defaultFnCode f = none ↔
    f.toNat ∈ [0, 1, 2, 10, 11, 14, 15, 16, 18, 19, 20, 23, 24, 29]) ∧
  ∀ s t : State, step s = .next t → t.fnCode = s.fnCode

/-- Rules R71 and R83, words written out from the format under the default table (log entry 1):
`A 5 F`, `T 6 D`, `V 2047 D`, `R 6 F`, `E 41 D`, `I 101 D`, `Z 0 F`, and codes 0 and 29 as Invalid. -/
def Obligations.WrittenWordsDecode : Prop :=
  decode 0b11100000000001010 = .ok (.add 5 false) ∧
  decode 0b00101000000001101 = .ok (.transfer 6 true) ∧
  decode 0b11111111111111111 = .ok (.multiplyAdd 2047 true) ∧
  decode 0b00100000000001100 = .ok (.rightShift 6 false) ∧
  decode 0b00011000001010011 = .ok (.branchNonneg 41 true) ∧
  decode 0b01000000011001011 = .ok (.read 101 true) ∧
  decode 0b01101000000000000 = .ok (.halt 0 false) ∧
  decode 0b00000000000000000 = .ok (.invalid 0 0 false) ∧
  decode 0b11101000000000101 = .ok (.invalid 29 2 true)

/-- Rule R250: the cost of every operation, and 15 for every Invalid code, under every well-formed
table; and every cycle adds its order's cost, whether or not the order halts. -/
def Obligations.TickCostTable : Prop :=
  (∀ fc : FnCode, fc.wf = true →
    (∀ op : Operation, tickCost fc (fc.code op) =
      if op = .multiplyAdd ∨ op = .multiplySubtract then 60
      else if op = .read then 215 else if op = .print then 1515 else 15) ∧
    ∀ f : Code, (∀ op : Operation, fc.code op ≠ f) → tickCost fc f = 15) ∧
  ∀ s : State, s.fnCode.wf = true → ∃ t : State, cycle s = .next t ∧
    t.ticks = s.ticks + tickCost s.fnCode (codeField s.fetchWord)

/-! ### Registers, store and operands -/

/-- Rules R23 to R26 (derived from R13 and the widths of decision D1): the composed value of the
Accumulator, its proper and its sign; the composed value and the sign of the Multiplicand and the
Multiplier; and writing a composed value and reading it back. -/
def Obligations.RegisterComposition : Prop :=
  (∀ a : Accumulator,
    a.value.toNat = a.w0.toNat + 2 ^ 18 * a.w1.toNat + 2 ^ 36 * a.w2.toNat + 2 ^ 54 * a.w3.toNat ∧
    a.proper.toNat = a.value.toNat / 2 ^ 36 ∧
    (a.w3.getLsbD 16 = true ↔ a.value.toInt < 0) ∧ (a.w3.getLsbD 16 = true ↔ a.proper.toInt < 0) ∧
    Accumulator.ofValue a.value = a) ∧
  (∀ v : AccWord, (Accumulator.ofValue v).value = v) ∧
  (∀ r : LongRegister,
    r.value.toNat = r.lo.toNat + 2 ^ 18 * r.hi.toNat ∧
    (r.hi.getLsbD 16 = true ↔ r.value.toInt < 0) ∧ LongRegister.ofValue r.value = r) ∧
  (∀ v : LongWord, (LongRegister.ofValue v).value = v) ∧
  ∀ (s : State) (v : AccWord) (c r : LongWord),
    (s.setAcc v).acc.value = v ∧ (s.setMc c).mc.value = c ∧ (s.setMr r).mr.value = r

/-- Rule R52: tank index, offset and index of an 11-bit address; addresses `a` and `a + 1024` name the
same word; `MemRead` reads that word, and `MemWrite` then `MemRead`, for every pair of addresses and
every width of value. -/
def Obligations.StoreMappingAndAccess : Prop :=
  (∀ a : Addr, tankIndex a = (a >>> 5 &&& 31#11).toNat ∧ tankOffset a = (a &&& 31#11).toNat ∧
    storeIndex a = tankIndex a * 32 + tankOffset a ∧
    storeIndex a = a.toNat % 1024 ∧ storeIndex (a + 1024#11) = storeIndex a) ∧
  (∀ (s : State) (a : Addr), s.memRead a = s.store.read (storeIndex a)) ∧
  ∀ (s : State) (a b : Addr) (k : Nat) (v : BitVec k), s.store.wf = true →
    ((s.memWrite a v).memRead b).toNat =
      if b.toNat % 1024 = a.toNat % 1024 then v.toNat % 2 ^ 17 else (s.memRead b).toNat

/-- Rule R100: with the long flag the low bit of the address is cleared, without it the address stays;
the pair is the low word at the even address and the high word at the next; and every order that reads
or writes a possibly-long operand is the same order at the even address. -/
def Obligations.AddressAdjustment : Prop :=
  (∀ n : Addr, adj n false = n ∧ (adj n true).toNat = 2 * (n.toNat / 2)) ∧
  (∀ (s : State) (n : Addr), operand s n true =
    composeLong ((s.memRead (adj n true)).setWidth 18) (s.memRead (adj n true + 1#11))) ∧
  ∀ (s : State) (n : Addr),
    exec (.add n true) s = exec (.add (adj n true) true) s ∧
    exec (.subtract n true) s = exec (.subtract (adj n true) true) s ∧
    exec (.loadMultiplier n true) s = exec (.loadMultiplier (adj n true) true) s ∧
    exec (.multiplyAdd n true) s = exec (.multiplyAdd (adj n true) true) s ∧
    exec (.multiplySubtract n true) s = exec (.multiplySubtract (adj n true) true) s ∧
    exec (.collate n true) s = exec (.collate (adj n true) true) s ∧
    exec (.transfer n true) s = exec (.transfer (adj n true) true) s ∧
    exec (.untransfer n true) s = exec (.untransfer (adj n true) true) s ∧
    exec (.read n true) s = exec (.read (adj n true) true) s ∧
    exec (.print n true) s = exec (.print (adj n true) true) s ∧
    exec (.printCheck n true) s = exec (.printCheck (adj n true) true) s

/-- Rules R101, R54 and R55: a long operand is the pair at the even address, low word first, with
sandwich bit 0; a short operand is the high word (decision D2), whatever the address. -/
def Obligations.OperandLayout : Prop :=
  ∀ (s : State) (n : Addr),
    (operand s n true).toNat =
      (s.store.read ((2 * (n.toNat / 2) + 1) % 1024)).toNat * 2 ^ 18 +
        (s.store.read (2 * (n.toNat / 2) % 1024)).toNat ∧
    (operand s n true).getLsbD 17 = false ∧
    (operand s n false).toNat = (s.store.read (n.toNat % 1024)).toNat * 2 ^ 18

/-! ### The adder family -/

/-- Rules R102 and R105: Add puts the operand in `MC` and adds it to the accumulator proper modulo
`2^35`; the working words and everything else stay. Short operands: decision D2. `notices` is the
model's own record: log entry 11. -/
def Obligations.AddResult : Prop :=
  ∀ (n : Addr) (l : Bool) (s : State), ∃ t : State, exec (.add n l) s = .next t ∧
    t.acc.proper = s.acc.proper + operand s n l ∧
    t.acc.w0 = s.acc.w0 ∧ t.acc.w1 = s.acc.w1 ∧ t.mc.value = operand s n l ∧
    t = { s with acc := t.acc, mc := t.mc,
                 notices := { s.notices with accumulator := true, multiplicand := true } }

/-- Rules R103 and R106: Subtract, likewise. Short operands: decision D2. `notices` is the model's own
record: log entry 11. -/
def Obligations.SubtractResult : Prop :=
  ∀ (n : Addr) (l : Bool) (s : State), ∃ t : State, exec (.subtract n l) s = .next t ∧
    t.acc.proper = s.acc.proper - operand s n l ∧
    t.acc.w0 = s.acc.w0 ∧ t.acc.w1 = s.acc.w1 ∧ t.mc.value = operand s n l ∧
    t = { s with acc := t.acc, mc := t.mc,
                 notices := { s.notices with accumulator := true, multiplicand := true } }

/-- Rule R107: Collate adds the AND of operand and Multiplier; `MC` is not written (decision D4). A
short operand: decision D2. `notices` is the model's own record: log entry 11. -/
def Obligations.CollateResult : Prop :=
  ∀ (n : Addr) (l : Bool) (s : State), ∃ t : State, exec (.collate n l) s = .next t ∧
    t.acc.proper = s.acc.proper + (operand s n l &&& s.mr.value) ∧
    t.acc.w0 = s.acc.w0 ∧ t.acc.w1 = s.acc.w1 ∧
    t = { s with acc := t.acc, notices := { s.notices with accumulator := true } }

/-- Rule R108 (decision D7), at word level: Round-off flips the top bit of `ACC.w[1]`, and if that bit
was set carries one unit into the accumulator proper, the carry out of it lost; `ACC.w[0]` and the low
bits of `ACC.w[1]` stay. `notices` is the model's own record: log entry 11. -/
def Obligations.RoundOffResult : Prop :=
  ∀ (n : Addr) (l : Bool) (s : State), ∃ t : State, exec (.roundOff n l) s = .next t ∧
    t.acc.w0 = s.acc.w0 ∧ t.acc.w1 = s.acc.w1 ^^^ 0x20000#18 ∧
    t.acc.proper = s.acc.proper + (if s.acc.w1.getLsbD 17 then 1#35 else 0#35) ∧
    t = { s with acc := t.acc, notices := { s.notices with accumulator := true } }

/-- Rule R109: Add then Subtract of the same operand restores `ACC` exactly, also when it overflows,
and `MC` ends holding the operand. -/
def Obligations.AddThenSubtractRestores : Prop :=
  ∀ (n : Addr) (l : Bool) (s : State), ∃ t u : State,
    exec (.add n l) s = .next t ∧ exec (.subtract n l) t = .next u ∧
    u.acc = s.acc ∧ u.mc.value = operand s n l

/-! ### The multiplier -/

/-- Rule R122: Load multiplier puts the operand in `MR` and changes nothing else. Short operands:
decision D2. `notices` is the model's own record: log entry 11. -/
def Obligations.LoadMultiplierResult : Prop :=
  ∀ (n : Addr) (l : Bool) (s : State), ∃ t : State, exec (.loadMultiplier n l) s = .next t ∧
    t.mr.value = operand s n l ∧
    t = { s with mr := t.mr, notices := { s.notices with multiplier := true } }

/-- Rules R120, R123 and R124 (decision D3): the Accumulator gains or loses four times the signed
product of operand and Multiplier, exactly and modulo `2^71`; `MC` ends 0; all else stays. `notices` is
the model's own record: log entry 11. -/
def Obligations.MultiplyResult : Prop :=
  ∀ (n : Addr) (l : Bool) (s : State), ∃ t u : State,
    exec (.multiplyAdd n l) s = .next t ∧ exec (.multiplySubtract n l) s = .next u ∧
    ((t.acc.value.toNat : Int) ≡
      s.acc.value.toNat + 4 * (operand s n l).toInt * s.mr.value.toInt [ZMOD 2 ^ 71]) ∧
    ((u.acc.value.toNat : Int) ≡
      s.acc.value.toNat - 4 * (operand s n l).toInt * s.mr.value.toInt [ZMOD 2 ^ 71]) ∧
    t = { s with acc := t.acc, mc := ⟨0#18, 0#17⟩,
                 notices := { s.notices with accumulator := true, multiplicand := true } } ∧
    u = { s with acc := u.acc, mc := ⟨0#18, 0#17⟩,
                 notices := { s.notices with accumulator := true, multiplicand := true } }

/-- Rule R121: the 35-iteration serial shift-and-add multiplier has exactly the effect of the closed
form that V and N are given by. -/
def Obligations.SerialMultiplierIsExact : Prop :=
  ∀ (s : State) (sub : Bool), s.serialMultiply sub = s.multiply sub

/-- Rule R125: a multiply never changes the two lowest bits of `ACC`; a zero operand leaves `ACC` as it
is; N after V of the same operand restores `ACC`. -/
def Obligations.MultiplyLaws : Prop :=
  ∀ (n : Addr) (l : Bool) (s : State), ∃ t u : State,
    exec (.multiplyAdd n l) s = .next t ∧ exec (.multiplySubtract n l) t = .next u ∧
    t.acc.value.toNat % 4 = s.acc.value.toNat % 4 ∧
    (operand s n l = 0#35 ∨ s.mr.value = 0#35 → t.acc = s.acc) ∧
    u.acc = s.acc

/-! ### Transfers -/

/-- Rules R140 and R141, with R56: U stores the high word (short) or both words of the accumulator
proper (long, at the even address, the sandwich bit dropped) and T does the same and clears all four
words of `ACC` (decision D5). Every other word and everything else stays. `notices` is the model's own
record: log entry 11. -/
def Obligations.TransferResult : Prop :=
  ∀ (n : Addr) (l : Bool) (s : State), s.store.wf = true → ∃ t u : State,
    exec (.transfer n l) s = .next t ∧ exec (.untransfer n l) s = .next u ∧
    t.store = u.store ∧ t.store.wf = true ∧
    (∀ a : Addr, u.memRead a =
      if storeIndex a = storeIndex (adj n l + if l then 1#11 else 0#11) then s.acc.w3
      else if l = true ∧ storeIndex a = storeIndex (adj n l) then s.acc.w2.setWidth 17
      else s.memRead a) ∧
    t = { s with acc := ⟨0#18, 0#18, 0#18, 0#17⟩, store := t.store,
                 notices := { s.notices with accumulator := true, store := t.notices.store } } ∧
    u = { s with store := u.store, notices := { s.notices with store := u.notices.store } }

/-- Rule R142: U then A of the same address adds back `ACC.w[3]` (short) or the accumulator proper
without its sandwich bit (long). -/
def Obligations.StoreThenAddBack : Prop :=
  ∀ (n : Addr) (l : Bool) (s : State), s.store.wf = true → ∃ t u : State,
    exec (.untransfer n l) s = .next t ∧ exec (.add n l) t = .next u ∧
    u.acc.proper = s.acc.proper +
      (if l then s.acc.proper &&& ~~~(1#35 <<< 17) else s.acc.w3.setWidth 35 <<< 18)

/-- Rule R66: a word stored by U at the address of the next order is the word the next cycle fetches. The
host's events are the model's own field: log entry 2. -/
def Obligations.StoredWordIsFetchedNext : Prop :=
  ∀ s : State, ReadyToCycle s → s.store.wf = true →
    s.nextOrder = .ok (.untransfer (s.scr + 1#11) false) →
    ∃ t : State, step s = .next t ∧ t.fetchWord = s.acc.w3

/-! ### The shifter -/

/-- Rule R150: the count is one more than the position of the lowest set bit of the control word, which
is the order word rebuilt from its fields; and it is between 1 and 17 whenever the function code is
not 0. -/
def Obligations.ShiftCountIsLowestSetBit : Prop :=
  (∀ (w : Word) (k : Nat), w ≠ 0#17 → (shiftLength w = k + 1 ↔
    2 ^ k ∣ w.toNat ∧ ¬ 2 ^ (k + 1) ∣ w.toNat)) ∧
  (∀ w : Word, shiftCount (codeField w) (addrField w) (longField w) = shiftLength w) ∧
  ∀ (f : Code) (n : Addr) (l : Bool), f ≠ 0#5 →
    shiftCount f n l = shiftLength (enc f n l) ∧ 1 ≤ shiftCount f n l ∧ shiftCount f n l ≤ 17

/-- Rule R151 (derived): under every table, count 1 with the long flag, `j + 2` where `j` is the lowest set
bit of the address, and with a zero address `j + 13` where `j` is the lowest set bit of the code; under
the default table (log entry 1) that is 15 for `R 0 F` and 13 for `L 0 F`. -/
def Obligations.ShiftCountsOfOrders : Prop :=
  (∀ (f : Code) (n : Addr), shiftCount f n true = 1) ∧
  (∀ (f : Code) (n : Addr) (j : Nat), 2 ^ j ∣ n.toNat → ¬ 2 ^ (j + 1) ∣ n.toNat →
    shiftCount f n false = j + 2) ∧
  (∀ (f : Code) (j : Nat), 2 ^ j ∣ f.toNat → ¬ 2 ^ (j + 1) ∣ f.toNat →
    shiftCount f 0#11 false = j + 13) ∧
  shiftCount defaultFnCode.rightShift 0#11 false = 15 ∧
  shiftCount defaultFnCode.leftShift 0#11 false = 13

/-- Rule R152 (decision D6): Right shift divides the signed 71-bit Accumulator by `2^k`, rounding
towards minus infinity; nothing else changes. `notices` is the model's own record: log entry 11. -/
def Obligations.RightShiftResult : Prop :=
  ∀ (n : Addr) (l : Bool) (s : State), ∃ t : State, exec (.rightShift n l) s = .next t ∧
    t.acc.value.toInt = s.acc.value.toInt / 2 ^ shiftCount s.fnCode.rightShift n l ∧
    t = { s with acc := t.acc, notices := { s.notices with accumulator := true } }

/-- Rule R153 (decision D6): Left shift multiplies the Accumulator by `2^k` modulo `2^71`; nothing else
changes. `notices` is the model's own record: log entry 11. -/
def Obligations.LeftShiftResult : Prop :=
  ∀ (n : Addr) (l : Bool) (s : State), ∃ t : State, exec (.leftShift n l) s = .next t ∧
    t.acc.value.toNat = s.acc.value.toNat * 2 ^ shiftCount s.fnCode.leftShift n l % 2 ^ 71 ∧
    t = { s with acc := t.acc, notices := { s.notices with accumulator := true } }

/-- Rule R154: R then L by the same count clears exactly the low `k` bits; L then R by the same count
restores `ACC` exactly when the top `k + 1` bits are all equal. -/
def Obligations.ShiftLaws : Prop :=
  ∀ (n m : Addr) (l k : Bool) (s : State),
    shiftCount s.fnCode.rightShift n l = shiftCount s.fnCode.leftShift m k →
    (∃ t u : State, exec (.rightShift n l) s = .next t ∧ exec (.leftShift m k) t = .next u ∧
      u.acc.value.toNat = s.acc.value.toNat / 2 ^ shiftCount s.fnCode.rightShift n l *
        2 ^ shiftCount s.fnCode.rightShift n l) ∧
    (∃ t u : State, exec (.leftShift m k) s = .next t ∧ exec (.rightShift n l) t = .next u ∧
      (u.acc = s.acc ↔
        ∀ j : Nat, 70 - shiftCount s.fnCode.rightShift n l ≤ j → j ≤ 70 →
          s.acc.value.getLsbD j = s.acc.value.getLsbD 70))

/-! ### Control -/

/-- Rules R170 and R171: E branches exactly when the signed Accumulator is not negative, G exactly when
it is, to the unadjusted address whatever the long flag (decision D19); nothing else changes. `notices`
is the model's own record: log entry 11. -/
def Obligations.BranchResult : Prop :=
  ∀ (n : Addr) (l : Bool) (s : State),
    let taken : State := { s with scr := n, notices := { s.notices with sequenceControl := true } }
    exec (.branchNonneg n l) s = .next (if 0 ≤ s.acc.value.toInt then taken else s) ∧
    exec (.branchNeg n l) s = .next (if s.acc.value.toInt < 0 then taken else s)

/-- Rule R174: No-op has no effect; its cycle increments `SCR`, writes `ORD` and adds 15 ticks, whatever
its fields. The pacing wait: log entry 16. `notices` is the model's own record: log entry 11. The host's
events are the model's own field: log entry 2. -/
def Obligations.NoopCycle : Prop :=
  (∀ (n : Addr) (l : Bool) (s : State), exec (.noop n l) s = .next s) ∧
  ∀ s : State, ReadyToCycle s → codeField s.fetchWord = s.fnCode.noop →
    step s = .next { s with
      scr := s.scr + 1#11, ord := s.fetchWord, ticks := s.ticks + 15, wait := s.config.realtime,
      notices := { sequenceControl := true, order := true,
                   tickCount := tickNotice s.tickPeriod s.ticks (s.ticks + 15) } }

/-- Rules R180 and R213: the cycle of Z halts with reset allowed and cause `halt_order`, `SCR` at the
next address and 15 ticks added, registers and store unchanged; the stop indicator is requested on, and
the bell if the option is on. Cause codes: decision D35; the pacing wait: log entry 16. `notices` is the
model's own record: log entry 11. The host's events are the model's own field: log entry 2. -/
def Obligations.HaltCycle : Prop :=
  (∀ (n : Addr) (l : Bool) (s : State), exec (.halt n l) s = .next { s with
    status := .halted, ra := true, cause := .haltOrder, stopReq := none,
    notices := { s.notices with stopIndicator := true, bell := s.config.bell } }) ∧
  ∀ s : State, ReadyToCycle s → codeField s.fetchWord = s.fnCode.halt →
    step s = .next { s with
      scr := s.scr + 1#11, ord := s.fetchWord, ticks := s.ticks + 15, wait := s.config.realtime,
      status := .halted, ra := true, cause := .haltOrder,
      notices := { sequenceControl := true, order := true, stopIndicator := true,
                   bell := s.config.bell,
                   tickCount := tickNotice s.tickPeriod s.ticks (s.ticks + 15) } }

/-- Rules R181 and R213: the cycle of an order whose code no operation has halts with reset not allowed
and cause `invalid_order`, `SCR` at the next address, 15 ticks added. Cause codes: decision D35; the
pacing wait: log entry 16. `notices` is the model's own record: log entry 11. The host's events are the
model's own field: log entry 2. -/
def Obligations.InvalidCycle : Prop :=
  (∀ (f : Code) (n : Addr) (l : Bool) (s : State), exec (.invalid f n l) s = .next { s with
    status := .halted, ra := false, cause := .invalidOrder, stopReq := none }) ∧
  ∀ s : State, ReadyToCycle s → (∀ op : Operation, s.fnCode.code op ≠ codeField s.fetchWord) →
    step s = .next { s with
      scr := s.scr + 1#11, ord := s.fetchWord, ticks := s.ticks + 15, wait := s.config.realtime,
      status := .halted, ra := false, cause := .invalidOrder,
      notices := { sequenceControl := true, order := true,
                   tickCount := tickNotice s.tickPeriod s.ticks (s.ticks + 15) } }

/-! ### Input and output -/

/-- Rule R192 (decision D8): a Read that meets a code stores it in bits 4:0 of the one word at the
adjusted address and consumes the item; every other word and everything else stays. `notices` is the
model's own record: log entry 11. -/
def Obligations.ReadStoresCode : Prop :=
  ∀ (n : Addr) (l : Bool) (s : State) (c : Code) (rest : List TapeItem),
    s.store.wf = true → s.tape = .code c :: rest → ∃ t : State, exec (.read n l) s = .next t ∧
    (∀ a : Addr, (t.memRead a).toNat =
      if storeIndex a = storeIndex (adj n l) then c.toNat else (s.memRead a).toNat) ∧
    t = { s with store := t.store, tape := rest,
                 notices := { s.notices with store := t.notices.store } }

/-- Rules R192, R193 and R211: the cycle of a failed Read leaves `SCR` at the Read itself, halts with
the cause and mark of the failure, adds 215 ticks and writes no store word. At the end of the tape the
tape stays; an invalid character is consumed and reported (decision D27, log entry 9). The pacing wait:
log entry 16. `notices` is the model's own record: log entry 11. The host's events are the model's own
field: log entry 2. -/
def Obligations.FailedReadCycle : Prop :=
  ∀ s : State, ReadyToCycle s → codeField s.fetchWord = s.fnCode.read →
    let failed : State := { s with
      ord := s.fetchWord, ticks := s.ticks + 215, wait := s.config.realtime, status := .halted,
      notices := { sequenceControl := true, order := true,
                   tickCount := tickNotice s.tickPeriod s.ticks (s.ticks + 215) } }
    ((s.tape = [] ∨ s.tape.head? = some .endOfTape) →
      step s = .next { failed with ra := true, cause := .tapeEnd }) ∧
    ∀ (line char : Nat) (rest : List TapeItem), s.tape = .invalidCharacter line char :: rest →
      step s = .next { failed with
        ra := false, cause := .tapeError, tape := rest,
        notices := { failed.notices with tapeReport := some (line, char) } }

/-- Rules R195 and R196: Print emits the top five bits of the word at its address and remembers them;
nothing else changes. A long Print reads the even or the odd word of the pair as the parameter
`PRINT_LONG_ADDR` says (decision D9), for both its values. -/
def Obligations.PrintResult : Prop :=
  ∀ (n : Addr) (l : Bool) (s : State) (a : Addr),
    (l = false → a = n) →
    (l = true → Config.printLongAddr = .even → a.toNat = 2 * (n.toNat / 2)) →
    (l = true → Config.printLongAddr = .odd → a.toNat = 2 * (n.toNat / 2) + 1) →
    ∃ t : State, exec (.print n l) s = .next t ∧
      t.lp.toNat = (s.memRead a).toNat / 2 ^ 12 ∧
      t = { s with lp := t.lp, output := s.output ++ [t.lp] }

/-- Rule R197: Print-check stores the last-printed code in bits 16:12 of the one word at the adjusted
address (decision D10), bits 11:0 zero, for every value of `LP`; every other word and everything else
stays. `notices` is the model's own record: log entry 11. -/
def Obligations.PrintCheckResult : Prop :=
  ∀ (n : Addr) (l : Bool) (s : State), s.store.wf = true →
    ∃ t : State, exec (.printCheck n l) s = .next t ∧
    (∀ a : Addr, (t.memRead a).toNat =
      if storeIndex a = storeIndex (adj n l) then s.lp.toNat * 2 ^ 12 else (s.memRead a).toNat) ∧
    t = { s with store := t.store, notices := { s.notices with store := t.notices.store } }

/-- Rule R198, first law: `O x F` then `F y F` leaves `STORE[x] & 0x1F000` at `y`. -/
def Obligations.PrintThenCheck : Prop :=
  ∀ (x y : Addr) (s : State), s.store.wf = true → ∃ t u : State,
    exec (.print x false) s = .next t ∧ exec (.printCheck y false) t = .next u ∧
    u.memRead y = s.memRead x &&& 0x1F000#17

/-- Rule R198, second law: from a clear Accumulator, `I x F`, `A x F`, `L 1024 F`, `U z F`, `O z F`
print the code that was read, which A has placed at `ACC[58:54]` and L at `ACC[70:66]`. -/
def Obligations.ReadShiftPrint : Prop :=
  ∀ (x z : Addr) (s : State) (c : Code) (rest : List TapeItem),
    s.store.wf = true → s.tape = .code c :: rest → s.acc = ⟨0#18, 0#18, 0#18, 0#17⟩ →
    ∃ s1 s2 s3 s4 s5 : State,
      exec (.read x false) s = .next s1 ∧ exec (.add x false) s1 = .next s2 ∧
      exec (.leftShift 1024#11 false) s2 = .next s3 ∧ exec (.untransfer z false) s3 = .next s4 ∧
      exec (.print z false) s4 = .next s5 ∧
      s2.acc.value.extractLsb' 54 5 = c ∧ s3.acc.value.extractLsb' 66 5 = c ∧
      s5.output = s.output ++ [c]

/-! ### The machine: cycle, run loop, host operations -/

/-- Rules R80 and R81: the step of a state ready to run an order is that order's meaning on the state
after the fetch (`SCR` incremented, `ORD` the fetched word), then its cost; also as a permitted single
step (rule R224). The notices are those of this step alone (log entry 11); the pacing wait: log
entry 16. The host's events are the model's own field: log entry 2. -/
def Obligations.StepRunsTheDecodedOrder : Prop :=
  ∀ (s : State) (i : Instr), runsCycle s = true → s.nextOrder = .ok i →
    let fetched : State := { s with
      scr := s.scr + 1#11, ord := s.memRead s.scr, hostEvents := s.hostEvents.tail,
      notices := { sequenceControl := true, order := true } }
    (∀ t : State, exec i fetched = .next t → step s = .next { t with
      ticks := t.ticks + tickCost s.fnCode (codeField (s.memRead s.scr)),
      wait := t.config.realtime,
      notices := { t.notices with
        tickCount := tickNotice t.tickPeriod t.ticks
          (t.ticks + tickCost s.fnCode (codeField (s.memRead s.scr))) } }) ∧
    (∀ r : Fault, exec i fetched = .fault r → step s = .fault r) ∧
    ∀ r : Refusal, exec i fetched = .refused r → step s = .refused r

/-- Rules R210 ("no exceptions cross the engine boundary"), R52, R104 and R76: no step faults, and no
step is refused but one that would run a cycle under a table that breaks rule R76. The host's events are
the model's own field: log entry 2. -/
def Obligations.EveryStepAnswersNext : Prop :=
  ∀ s : State,
    (s.fnCode.wf = true ∨ runsCycle s = false → ∃ t : State, step s = .next t) ∧
    (s.fnCode.wf = false → runsCycle s = true → step s = .refused .illFormedFnCode)

/-- Every step keeps the machine consistent: rules R32, R76, R211, R213 and R221 to R223, and the
model's own: the canonical form of the store (log entry 6), the loader's position inside its list (log
entry 3), and no open pacing wait in `idle` and `loading` (log entries 15 and 16). -/
def Obligations.StepKeepsConsistent : Prop :=
  ∀ s t : State, Consistent s → step s = .next t → Consistent t

/-- The power-on state is consistent, for every table that rule R76 admits and every value drawn for
`LP`; the clauses that are the model's own: log entries 3, 6, 15 and 16. -/
def Obligations.PowerOnIsConsistent : Prop :=
  ∀ (fc : FnCode) (period : Nat) (lp : Code), fc.wf = true → Consistent (State.powerOn fc period lp)

/-- Rule R42: at power-on every tank is zero, for every value drawn for `LP` (rule R36) and every
parameter. -/
def Obligations.PowerOnTanksAreZero : Prop :=
  ∀ (fc : FnCode) (period : Nat) (lp : Code),
    let s : State := State.powerOn fc period lp
    s.acc.value = 0#71 ∧ s.mc.value = 0#35 ∧ s.mr.value = 0#35 ∧ s.scr = 0#11 ∧ s.ord = 0#17 ∧
    ∀ k : Nat, k < 1024 → s.store.read k = 0#17

/-- Rules R43 and R240 (the spec's decision D25): the control state at power-on, for every value drawn
for `LP`; no order executes, the engine waits for `start`: with a silent host (log entry 2) every number
of steps leaves the state as it is. -/
def Obligations.PowerOnWaitsForStart : Prop :=
  ∀ (fc : FnCode) (period : Nat) (lp : Code) (k : Nat),
    let s : State := State.powerOn fc period lp
    s.status = .idle ∧ s.ra = false ∧ s.cause = .none ∧ s.stopReq = none ∧ s.wait = false ∧
    s.ticks = 0 ∧ s.lp = lp ∧ runSteps k s = .next s

/-- Rule R219: the execution state changes only as the transition table says. When loading is complete:
log entry 3. The host's events are the model's own field: log entry 2. -/
def Obligations.ExecutionStateTransitions : Prop :=
  ∀ s t : State, step s = .next t → s.status ≠ t.status →
    (s.hostEvents.head? = some .start ∧ (s.status = .idle ∨ s.status = .halted) ∧
      t.status = .loading) ∨
    (s.status = .loading ∧ s.ordersLength ≤ s.bootNext ∧ t.status = .running) ∨
    (s.status = .running ∧ t.status = .halted ∧ t.ra = resetAllowed t.cause ∧
      ((∃ k : StopKind, s.stopReq = some k ∧ t.cause = stopCause k) ∨
        ∃ i : Instr, s.nextOrder = .ok i ∧
          ((i.operation = some .halt ∧ t.cause = .haltOrder) ∨
            (i.operation = none ∧ t.cause = .invalidOrder) ∨
            (i.operation = some .read ∧ (t.cause = .tapeEnd ∨ t.cause = .tapeError))))) ∨
    (s.hostEvents.head? = some .reset ∧ s.status = .halted ∧ s.ra = true ∧ t.status = .running)

/-- Rules R217, R233 and R255: in `idle` and `halted` nothing happens until the host acts: with a silent
host every further step leaves registers, store, `LP` and `TICKS` as they are. An open pacing wait, also
in `running`, ends in one step that changes nothing else (log entry 16). `notices` is the model's own
record: log entry 11. The host's events are the model's own field: log entry 2. -/
def Obligations.RestingEngineWaits : Prop :=
  (∀ (s : State) (k : Nat), s.status = .idle ∨ s.status = .halted → s.hostEvents = [] →
    runSteps (k + 1) s = .next { s with wait := false, notices := {} }) ∧
  ∀ s : State, s.wait = true → s.hostEvents = [] →
    step s = .next { s with wait := false, notices := {} }

/-- Rule R252: `TICKS` grows by the order's cost in a step that runs a cycle, by 1000 in a step that
loads a word (one word a step: log entry 3), and in no other step. The host's events are the model's own
field: log entry 2. -/
def Obligations.TicksOnlyFromCyclesAndLoading : Prop :=
  ∀ s t : State, step s = .next t →
    t.ticks = s.ticks + (if runsCycle s then tickCost s.fnCode (codeField s.fetchWord)
      else if loadsWord s then 1000 else 0)

/-- Rule R253: neither `TICKS` nor real-time pacing is an input of a cycle: with other values of them
the cycle gives the same registers, store, output and cause. That `WAIT` stands after a paced cycle: log
entry 16; the notification of the tick count: log entry 18. -/
def Obligations.TimingIsNoInput : Prop :=
  ∀ (s t : State) (k : Nat) (w r : Bool), cycle s = .next t →
    let cost : Nat := tickCost s.fnCode (codeField s.fetchWord)
    cycle { s with ticks := k, wait := w, config := { s.config with realtime := r } } =
      .next { t with
        ticks := k + cost, wait := r, config := { t.config with realtime := r },
        notices := { t.notices with tickCount := tickNotice s.tickPeriod k (k + cost) } }

/-- Rules R29 and R40(a): no step's effect depends on `MC`: with any other `MC` the step gives the same
state but for `MC`. -/
def Obligations.MultiplicandIsNeverRead : Prop :=
  ∀ (s t : State) (m : LongRegister), step s = .next t →
    ∃ m' : LongRegister, step { s with mc := m } = .next { t with mc := m' }

/-- Rules R29 and R59: which order writes which state. Every field an order changes is one its row of
the table lists; `ORD`, `TICKS`, `WAIT` and the configuration are written by none. The host's events are
the model's own field: log entry 2. -/
def Obligations.OrdersWriteOnlyTheirOwn : Prop :=
  ∀ (i : Instr) (s t : State), exec i s = .next t →
    (t.acc ≠ s.acc → i.operation ∈ [some .add, some .subtract, some .collate, some .roundOff,
      some .multiplyAdd, some .multiplySubtract, some .transfer, some .rightShift,
      some .leftShift]) ∧
    (t.mc ≠ s.mc → i.operation ∈ [some .add, some .subtract, some .multiplyAdd,
      some .multiplySubtract]) ∧
    (t.mr ≠ s.mr → i.operation = some .loadMultiplier) ∧
    (t.scr ≠ s.scr → i.operation ∈ [some .branchNonneg, some .branchNeg, some .read]) ∧
    (t.lp ≠ s.lp ∨ t.output ≠ s.output → i.operation = some .print) ∧
    (t.tape ≠ s.tape → i.operation = some .read) ∧
    (t.store ≠ s.store → i.operation ∈ [some .transfer, some .untransfer, some .read,
      some .printCheck]) ∧
    (t.status ≠ s.status ∨ t.cause ≠ s.cause ∨ t.ra ≠ s.ra ∨ t.stopReq ≠ s.stopReq →
      i.operation ∈ [some .halt, some .read, none]) ∧
    t.ord = s.ord ∧ t.ticks = s.ticks ∧ t.wait = s.wait ∧ t.config = s.config ∧
    t.fnCode = s.fnCode ∧ t.tickPeriod = s.tickPeriod ∧
    t.bootNext = s.bootNext ∧ t.hostEvents = s.hostEvents

/-- Rule R227: whatever entity a step changes, its notification is fired in that step; and the tick count
is notified exactly by the steps in which it reaches or passes a multiple of the period. The record of
notices, which names a store word by its index, is the model's: log entry 11; the period and what it
counts: log entry 18. -/
def Obligations.ChangesAreNotified : Prop :=
  ∀ s t : State, step s = .next t →
    (t.acc ≠ s.acc → t.notices.accumulator = true) ∧
    (t.mc ≠ s.mc → t.notices.multiplicand = true) ∧
    (t.mr ≠ s.mr → t.notices.multiplier = true) ∧
    (t.scr ≠ s.scr → t.notices.sequenceControl = true) ∧
    (t.ord ≠ s.ord → t.notices.order = true) ∧
    (∀ k : Nat, k < 1024 → t.store.read k ≠ s.store.read k → k ∈ t.notices.store) ∧
    t.tickPeriod = s.tickPeriod ∧
    t.notices.tickCount =
      if s.ticks / s.tickPeriod = t.ticks / s.tickPeriod then none else some t.ticks

/-- Rules R218, R222 and R225 (decision D17): a `stop` or `kill` while running, no order under way, lets
no further order begin: the next step of the engine halts with reset allowed and the request's cause,
registers, store and `TICKS` unchanged. A kill also ends a pacing wait; a stop lets it end first (a wait
is one step: log entry 16). A stop while a kill is pending halts with the cause of one of the two: log
entry 14. At rest a stop has no effect, and a kill only ends an open wait: log entry 15. `notices` is the
model's own record: log entry 11. The host's events are the model's own field: log entry 2. -/
def Obligations.StopAndKillHalt : Prop :=
  (∀ s : State, s.status = .running →
    let halted : State := { s with
      status := .halted, ra := true, stopReq := none, wait := false, notices := {},
      hostEvents := [] }
    (s.stopReq ≠ some .kill → s.hostEvents = [.stop] →
      runSteps (if s.wait then 3 else 2) s = .next { halted with cause := .operatorStop }) ∧
    (s.stopReq = some .kill → s.hostEvents = [.stop] →
      ∃ c ∈ [Cause.operatorStop, .operatorKill],
        runSteps (if s.wait then 3 else 2) s = .next { halted with cause := c }) ∧
    (s.hostEvents = [.kill] → runSteps 2 s = .next { halted with cause := .operatorKill })) ∧
  ∀ (s : State) (rest : List HostEvent), s.status = .idle ∨ s.status = .halted →
    (s.hostEvents = .stop :: rest →
      step s = .next { s with notices := {}, hostEvents := rest }) ∧
    (s.hostEvents = .kill :: rest →
      step s = .next { s with wait := false, notices := {}, hostEvents := rest })

/-- Rules R211, R213 and R215: an order that halts, also while a request is pending, records its own
cause (Z `halt_order`, Invalid `invalid_order`, a failed Read that of the item it met) with that cause's
mark, and discards the request. -/
def Obligations.HaltingOrderDiscardsRequest : Prop :=
  ∀ (i : Instr) (s t : State), s.status = .running → exec i s = .next t → t.status = .halted →
    raisedCause i s.tape = some t.cause ∧ t.stopReq = none ∧ t.ra = resetAllowed t.cause

/-- Rules R223 and R245: a permitted `reset` writes only `STATE` and `CAUSE`; not permitted, it has no
effect. Not during a pacing wait: log entry 15. `notices` is the model's own record: log entry 11. The
host's events are the model's own field: log entry 2. -/
def Obligations.ResetResumes : Prop :=
  ∀ (s : State) (rest : List HostEvent), s.hostEvents = .reset :: rest →
    step s = .next (
      if s.status = .halted ∧ s.ra = true ∧ s.wait = false then
        { s with status := .running, cause := .none, notices := {}, hostEvents := rest }
      else { s with notices := {}, hostEvents := rest })

/-- Rule R224 (decision D18): a permitted single step is exactly one cycle with the state left `halted`:
if the order raises a halt (Z, Invalid, a Read that fails), `RA` and `CAUSE` take that halt's values, and
if it raises none, `RA` stays true and `CAUSE` is unchanged. Not permitted, it has no effect. Not during a
pacing wait: log entry 15. `notices` is the model's own record: log entry 11. The host's events are the
model's own field: log entry 2. -/
def Obligations.SingleStepRunsOneOrder : Prop :=
  ∀ (s : State) (rest : List HostEvent), s.hostEvents = .step :: rest →
    (s.status = .halted ∧ s.ra = true ∧ s.wait = false →
      step s = cycle { s with notices := {}, hostEvents := rest } ∧
      (s.fnCode.wf = true → ∃ (i : Instr) (t : State), s.nextOrder = .ok i ∧ step s = .next t ∧
        t.status = .halted ∧ t.ord = s.fetchWord ∧
        t.ticks = s.ticks + tickCost s.fnCode (codeField s.fetchWord) ∧
        (∀ c : Cause, raisedCause i s.tape = some c → t.cause = c ∧ t.ra = resetAllowed c) ∧
        (raisedCause i s.tape = none → t.cause = s.cause ∧ t.ra = true))) ∧
    (¬ (s.status = .halted ∧ s.ra = true ∧ s.wait = false) →
      step s = .next { s with notices := {}, hostEvents := rest })

/-- Rules R221, R241 and R244: a permitted `start` enters `loading` with no cause and no request; with
`START_CLEARS` every tank is zero, without it every tank is as before, and in both cases `LP` and
`TICKS` stay (both values of the parameter). Not permitted, it has no effect. Loading word by word: log
entry 3; not during a pacing wait: log entry 15. `notices` is the model's own record: log entry 11. The
host's events are the model's own field: log entry 2. -/
def Obligations.StartBeginsLoading : Prop :=
  ∀ (s : State) (rest : List HostEvent), s.hostEvents = .start :: rest →
    ((s.status = .idle ∨ s.status = .halted) ∧ s.wait = false →
      ∃ t : State, step s = .next t ∧ t.status = .loading ∧ t.cause = .none ∧ t.stopReq = none ∧
        t.bootNext = 0 ∧ t.lp = s.lp ∧ t.ticks = s.ticks ∧ t.tape = s.tape ∧ t.ra = s.ra ∧
        t.output = s.output ∧ t.config = s.config ∧ t.wait = false ∧ t.hostEvents = rest ∧
        (Config.startClears = true →
          t.acc = ⟨0#18, 0#18, 0#18, 0#17⟩ ∧ t.mc = ⟨0#18, 0#17⟩ ∧ t.mr = ⟨0#18, 0#17⟩ ∧
          t.scr = 0#11 ∧ t.ord = 0#17 ∧ t.store = []) ∧
        (Config.startClears = false →
          t.acc = s.acc ∧ t.mc = s.mc ∧ t.mr = s.mr ∧ t.scr = s.scr ∧ t.ord = s.ord ∧
          t.store = s.store)) ∧
    (¬ ((s.status = .idle ∨ s.status = .halted) ∧ s.wait = false) →
      step s = .next { s with notices := {}, hostEvents := rest })

/-- Rules R241 to R243, for any contents of the initial orders: with a silent host the loader writes
every word at its address, adds 1000 ticks a word, then puts `SCR` at 0 and starts the run; every other
store word and register stays. One word a step: log entry 3. `notices` is the model's own record: log
entry 11. The host's events are the model's own field: log entry 2. -/
def Obligations.LoaderLoadsTheInitialOrders : Prop :=
  ∀ s : State, s.store.wf = true → s.status = .loading → s.wait = false → s.hostEvents = [] →
    s.bootNext = 0 → ∃ t : State,
      runSteps (s.ordersLength + 1) s = .next t ∧
      (∀ k : Nat, k < 1024 → t.store.read k =
        if k < s.ordersLength then (initialOrders s.config.bootRev).getD k 0#17
        else s.store.read k) ∧
      t = { s with store := t.store, scr := 0#11, status := .running, bootNext := s.ordersLength,
                   ticks := s.ticks + 1000 * s.ordersLength,
                   notices := { sequenceControl := true } }

/-- Rules R222, R225 and R241 (decision D17, `90_conflicts.md` C11): a `stop` or `kill` during loading
sets the request and nothing else, the loader goes on to the end, and the request is honoured at the
first boundary, before the first order executes; so is one that is already pending. A stop while a kill
is pending: log entry 14. One word a step: log entry 3. `notices` is the model's own record: log
entry 11. The host's events are the model's own field: log entry 2. -/
def Obligations.RequestDuringLoadingIsKept : Prop :=
  ∀ s : State, s.status = .loading → s.wait = false → s.bootNext ≤ s.ordersLength →
    let kept (k : StopKind) : State := { s with
      stopReq := some k, notices := {}, hostEvents := [] }
    let honoured (k : StopKind) (t : State) : Prop :=
      t.status = .halted ∧ t.ra = true ∧ t.cause = stopCause k ∧ t.stopReq = none ∧ t.scr = 0#11 ∧
      t.ord = s.ord ∧ t.acc = s.acc ∧ t.ticks = s.ticks + 1000 * (s.ordersLength - s.bootNext)
    let left : Nat := s.ordersLength - s.bootNext
    (∀ k : StopKind, s.hostEvents = [] → s.stopReq = some k →
      ∃ t : State, runSteps (left + 2) s = .next t ∧ honoured k t) ∧
    (s.hostEvents = [.stop] → s.stopReq ≠ some .kill → step s = .next (kept .stop) ∧
      ∃ t : State, runSteps (left + 3) s = .next t ∧ honoured .stop t) ∧
    (s.hostEvents = [.stop] → s.stopReq = some .kill → ∃ k : StopKind, step s = .next (kept k) ∧
      ∃ t : State, runSteps (left + 3) s = .next t ∧ honoured k t) ∧
    (s.hostEvents = [.kill] → step s = .next (kept .kill) ∧
      ∃ t : State, runSteps (left + 3) s = .next t ∧ honoured .kill t)

/-- Rules R244, R246 and R247: after power-on `start` reaches the same running state for both values of
`START_CLEARS`, a clean launch of the initial orders: they stand from address 0 on, every other word and
register is 0, `SCR` is at 0 and 1000 ticks a word were added; for every `INITIAL_ORDERS`, table that
rule R76 admits, configuration, tape and value of `LP`. One word a step, with the loader's position: log
entry 3. `notices` is the model's own record: log entry 11. The host's events are the model's own field:
log entry 2. -/
def Obligations.StartFromPowerOn : Prop :=
  ∀ (fc : FnCode) (period : Nat) (lp : Code) (c : HostConfig) (items : List TapeItem),
    fc.wf = true → ∃ t : State,
    runSteps ((Config.initialOrdersLength c.bootRev).val + 2)
      { State.powerOn fc period lp with config := c, tape := items, hostEvents := [.start] } = .next t ∧
    (∀ k : Nat, k < 1024 → t.store.read k = (initialOrders c.bootRev).getD k 0#17) ∧
    CleanLaunch (programAt 0#11 (initialOrders c.bootRev))
      (fun u => u.acc.value = 0#71 ∧ u.mc.value = 0#35 ∧ u.mr.value = 0#35 ∧ u.scr = 0#11 ∧
        u.ord = 0#17 ∧ ∀ k : Nat, (Config.initialOrdersLength c.bootRev).val ≤ k → k < 1024 →
          u.store.read k = 0#17) t ∧
    t = { State.powerOn fc period lp with
            config := c, tape := items, status := .running, store := t.store,
            bootNext := (Config.initialOrdersLength c.bootRev).val,
            ticks := 1000 * (Config.initialOrdersLength c.bootRev).val,
            notices := { sequenceControl := true } }

/-- Rule R226: replacing or extending the tape and changing the configuration change no register and no
store word, and happen only at rest (in `loading` they have no effect: rule R219, `90_conflicts.md` C11,
log entry 13). The end of a tape that is extended: decision D27, log entry 9. `notices` is the model's
own record: log entry 11. The host's events are the model's own field: log entry 2. -/
def Obligations.TapeAndConfigurationChanges : Prop :=
  ∀ (s : State) (rest : List HostEvent) (items : List TapeItem) (c : HostConfig),
    let t : State := { s with notices := {}, hostEvents := rest }
    let rests : Prop := s.status = .idle ∨ s.status = .halted
    (s.hostEvents = .replaceTape items :: rest →
      (rests → step s = .next { t with tape := items }) ∧ (¬ rests → step s = .next t)) ∧
    (s.hostEvents = .extendTape items :: rest →
      (rests → ∀ kept post : List TapeItem, .endOfTape ∉ kept →
        s.tape = kept ∨ s.tape = kept ++ .endOfTape :: post →
        step s = .next { t with tape := kept ++ items }) ∧
      (¬ rests → step s = .next t)) ∧
    (s.hostEvents = .configure c :: rest →
      (rests → step s = .next { t with config := c }) ∧ (¬ rests → step s = .next t))
end

