-- ==== Sys2Proof/Laws/Encoding.lean ====
section
/-! SUPPORT. The order format, and when the decoder rejects. -/

namespace Sys2Proof

/-- An order word as a number: `f * 4096 + n * 2 + L`. -/
theorem enc_toNat (f : Code) (n : Addr) (l : Bool) :
    (enc f n l).toNat = f.toNat * 2 ^ 12 + n.toNat * 2 + (if l then 1 else 0) := by
  have hf := f.isLt
  have hn := n.isLt
  have h1 : (n.toNat <<< 1) ||| (if l then 1 else 0) = n.toNat * 2 + (if l then 1 else 0) := by
    rw [Nat.shiftLeft_eq, Nat.mul_comm n.toNat,
      ← Nat.two_pow_add_eq_or_of_lt (i := 1) (by cases l <;> decide)]
  have h2 : (f.toNat <<< 12) ||| (n.toNat * 2 + (if l then 1 else 0)) =
      f.toNat * 2 ^ 12 + (n.toNat * 2 + (if l then 1 else 0)) := by
    rw [Nat.shiftLeft_eq, Nat.mul_comm f.toNat,
      ← Nat.two_pow_add_eq_or_of_lt (i := 12) (by cases l <;> simp <;> omega)]
  have hl : ((BitVec.ofBool l).setWidth 17).toNat = if l then 1 else 0 := by cases l <;> rfl
  have hfs : (f.setWidth 17 <<< 12).toNat = f.toNat <<< 12 := by
    simp only [BitVec.toNat_shiftLeft, BitVec.toNat_setWidth, Nat.shiftLeft_eq]
    omega
  have hns : (n.setWidth 17 <<< 1).toNat = n.toNat <<< 1 := by
    simp only [BitVec.toNat_shiftLeft, BitVec.toNat_setWidth, Nat.shiftLeft_eq]
    omega
  unfold enc
  rw [BitVec.toNat_or, BitVec.toNat_or, hl, hfs, hns, Nat.or_assoc, h1, h2]
  omega

@[simp] theorem codeField_enc (f : Code) (n : Addr) (l : Bool) : codeField (enc f n l) = f := by
  apply BitVec.eq_of_toNat_eq
  have hf := f.isLt
  have hn := n.isLt
  simp only [codeField, BitVec.extractLsb'_toNat, enc_toNat, Nat.shiftRight_eq_div_pow]
  cases l <;> simp <;> omega

@[simp] theorem addrField_enc (f : Code) (n : Addr) (l : Bool) : addrField (enc f n l) = n := by
  apply BitVec.eq_of_toNat_eq
  have hf := f.isLt
  have hn := n.isLt
  simp only [addrField, BitVec.extractLsb'_toNat, enc_toNat, Nat.shiftRight_eq_div_pow]
  cases l <;> simp <;> omega

@[simp] theorem longField_enc (f : Code) (n : Addr) (l : Bool) : longField (enc f n l) = l := by
  have h : longField (enc f n l) = decide ((enc f n l).toNat % 2 = 1) := by
    simp [longField, BitVec.getLsbD, Nat.testBit_zero]
  rw [h, enc_toNat]
  cases l <;> simp <;> omega

/-- The default table meets rule R76. -/
theorem defaultFnCode_wf : defaultFnCode.wf = true := by decide

/-- Under a well-formed table the decoder never rejects. -/
theorem decodeWith_wf {fc : FnCode} (h : fc.wf = true) (w : Word) :
    decodeWith fc w =
      .ok (instrOf (dispatch fc (codeField w)) (codeField w) (addrField w) (longField w)) := by
  unfold decodeWith
  rw [if_pos h]

/-- Under an ill-formed table the decoder always rejects. -/
theorem decodeWith_illFormed {fc : FnCode} (h : fc.wf = false) (w : Word) :
    decodeWith fc w = .error .illFormedFnCode := by
  unfold decodeWith
  rw [h]
  rfl

/-- A table under which something decodes is well-formed. -/
theorem wf_of_decodeWith {fc : FnCode} {w : Word} {i : Instr} (h : decodeWith fc w = .ok i) :
    fc.wf = true := by
  cases hf : fc.wf with
  | true => rfl
  | false =>
    rw [decodeWith_illFormed hf] at h
    cases h

end Sys2Proof
end

