-- ==== Sys2Proof/Laws/State.lean ====
section
/-! SUPPORT. What each update of the state does to each field: one lemma per field per update, all true
by `rfl`, so that no later proof unfolds a record update. The proofs are written `(rfl)`: simp then
rewrites with the lemma, and the kernel does not compare the updated values. -/

namespace Sys2Proof.Machine

variable (s : State)

@[simp] theorem State.setAcc_acc (v : AccWord) : (s.setAcc v).acc = Accumulator.ofValue v := (rfl)
@[simp] theorem State.setAcc_mc (v : AccWord) : (s.setAcc v).mc = s.mc := (rfl)
@[simp] theorem State.setAcc_mr (v : AccWord) : (s.setAcc v).mr = s.mr := (rfl)
@[simp] theorem State.setAcc_scr (v : AccWord) : (s.setAcc v).scr = s.scr := (rfl)
@[simp] theorem State.setAcc_ord (v : AccWord) : (s.setAcc v).ord = s.ord := (rfl)
@[simp] theorem State.setAcc_store (v : AccWord) : (s.setAcc v).store = s.store := (rfl)
@[simp] theorem State.setAcc_status (v : AccWord) : (s.setAcc v).status = s.status := (rfl)
@[simp] theorem State.setAcc_wait (v : AccWord) : (s.setAcc v).wait = s.wait := (rfl)
@[simp] theorem State.setAcc_ra (v : AccWord) : (s.setAcc v).ra = s.ra := (rfl)
@[simp] theorem State.setAcc_cause (v : AccWord) : (s.setAcc v).cause = s.cause := (rfl)
@[simp] theorem State.setAcc_stopReq (v : AccWord) : (s.setAcc v).stopReq = s.stopReq := (rfl)
@[simp] theorem State.setAcc_lp (v : AccWord) : (s.setAcc v).lp = s.lp := (rfl)
@[simp] theorem State.setAcc_ticks (v : AccWord) : (s.setAcc v).ticks = s.ticks := (rfl)
@[simp] theorem State.setAcc_tape (v : AccWord) : (s.setAcc v).tape = s.tape := (rfl)
@[simp] theorem State.setAcc_output (v : AccWord) : (s.setAcc v).output = s.output := (rfl)
@[simp] theorem State.setAcc_fnCode (v : AccWord) : (s.setAcc v).fnCode = s.fnCode := (rfl)
@[simp] theorem State.setAcc_tickPeriod (v : AccWord) :
    (s.setAcc v).tickPeriod = s.tickPeriod := (rfl)
@[simp] theorem State.setAcc_config (v : AccWord) : (s.setAcc v).config = s.config := (rfl)
@[simp] theorem State.setAcc_bootNext (v : AccWord) : (s.setAcc v).bootNext = s.bootNext := (rfl)
@[simp] theorem State.setAcc_notices (v : AccWord) :
    (s.setAcc v).notices = { s.notices with accumulator := true } := (rfl)
@[simp] theorem State.setAcc_hostEvents (v : AccWord) :
    (s.setAcc v).hostEvents = s.hostEvents := (rfl)

@[simp] theorem State.setProperWords_acc (lo : SlotWord) (hi : Word) :
    (s.setProperWords lo hi).acc = { s.acc with w2 := lo, w3 := hi } := (rfl)
@[simp] theorem State.setProperWords_mc (lo : SlotWord) (hi : Word) :
    (s.setProperWords lo hi).mc = s.mc := (rfl)
@[simp] theorem State.setProperWords_mr (lo : SlotWord) (hi : Word) :
    (s.setProperWords lo hi).mr = s.mr := (rfl)
@[simp] theorem State.setProperWords_scr (lo : SlotWord) (hi : Word) :
    (s.setProperWords lo hi).scr = s.scr := (rfl)
@[simp] theorem State.setProperWords_ord (lo : SlotWord) (hi : Word) :
    (s.setProperWords lo hi).ord = s.ord := (rfl)
@[simp] theorem State.setProperWords_store (lo : SlotWord) (hi : Word) :
    (s.setProperWords lo hi).store = s.store := (rfl)
@[simp] theorem State.setProperWords_status (lo : SlotWord) (hi : Word) :
    (s.setProperWords lo hi).status = s.status := (rfl)
@[simp] theorem State.setProperWords_wait (lo : SlotWord) (hi : Word) :
    (s.setProperWords lo hi).wait = s.wait := (rfl)
@[simp] theorem State.setProperWords_ra (lo : SlotWord) (hi : Word) :
    (s.setProperWords lo hi).ra = s.ra := (rfl)
@[simp] theorem State.setProperWords_cause (lo : SlotWord) (hi : Word) :
    (s.setProperWords lo hi).cause = s.cause := (rfl)
@[simp] theorem State.setProperWords_stopReq (lo : SlotWord) (hi : Word) :
    (s.setProperWords lo hi).stopReq = s.stopReq := (rfl)
@[simp] theorem State.setProperWords_lp (lo : SlotWord) (hi : Word) :
    (s.setProperWords lo hi).lp = s.lp := (rfl)
@[simp] theorem State.setProperWords_ticks (lo : SlotWord) (hi : Word) :
    (s.setProperWords lo hi).ticks = s.ticks := (rfl)
@[simp] theorem State.setProperWords_tape (lo : SlotWord) (hi : Word) :
    (s.setProperWords lo hi).tape = s.tape := (rfl)
@[simp] theorem State.setProperWords_output (lo : SlotWord) (hi : Word) :
    (s.setProperWords lo hi).output = s.output := (rfl)
@[simp] theorem State.setProperWords_fnCode (lo : SlotWord) (hi : Word) :
    (s.setProperWords lo hi).fnCode = s.fnCode := (rfl)
@[simp] theorem State.setProperWords_tickPeriod (lo : SlotWord) (hi : Word) :
    (s.setProperWords lo hi).tickPeriod = s.tickPeriod := (rfl)
@[simp] theorem State.setProperWords_config (lo : SlotWord) (hi : Word) :
    (s.setProperWords lo hi).config = s.config := (rfl)
@[simp] theorem State.setProperWords_bootNext (lo : SlotWord) (hi : Word) :
    (s.setProperWords lo hi).bootNext = s.bootNext := (rfl)
@[simp] theorem State.setProperWords_notices (lo : SlotWord) (hi : Word) :
    (s.setProperWords lo hi).notices = { s.notices with accumulator := true } := (rfl)
@[simp] theorem State.setProperWords_hostEvents (lo : SlotWord) (hi : Word) :
    (s.setProperWords lo hi).hostEvents = s.hostEvents := (rfl)

@[simp] theorem State.setMc_acc (v : LongWord) : (s.setMc v).acc = s.acc := (rfl)
@[simp] theorem State.setMc_mc (v : LongWord) : (s.setMc v).mc = LongRegister.ofValue v := (rfl)
@[simp] theorem State.setMc_mr (v : LongWord) : (s.setMc v).mr = s.mr := (rfl)
@[simp] theorem State.setMc_scr (v : LongWord) : (s.setMc v).scr = s.scr := (rfl)
@[simp] theorem State.setMc_ord (v : LongWord) : (s.setMc v).ord = s.ord := (rfl)
@[simp] theorem State.setMc_store (v : LongWord) : (s.setMc v).store = s.store := (rfl)
@[simp] theorem State.setMc_status (v : LongWord) : (s.setMc v).status = s.status := (rfl)
@[simp] theorem State.setMc_wait (v : LongWord) : (s.setMc v).wait = s.wait := (rfl)
@[simp] theorem State.setMc_ra (v : LongWord) : (s.setMc v).ra = s.ra := (rfl)
@[simp] theorem State.setMc_cause (v : LongWord) : (s.setMc v).cause = s.cause := (rfl)
@[simp] theorem State.setMc_stopReq (v : LongWord) : (s.setMc v).stopReq = s.stopReq := (rfl)
@[simp] theorem State.setMc_lp (v : LongWord) : (s.setMc v).lp = s.lp := (rfl)
@[simp] theorem State.setMc_ticks (v : LongWord) : (s.setMc v).ticks = s.ticks := (rfl)
@[simp] theorem State.setMc_tape (v : LongWord) : (s.setMc v).tape = s.tape := (rfl)
@[simp] theorem State.setMc_output (v : LongWord) : (s.setMc v).output = s.output := (rfl)
@[simp] theorem State.setMc_fnCode (v : LongWord) : (s.setMc v).fnCode = s.fnCode := (rfl)
@[simp] theorem State.setMc_tickPeriod (v : LongWord) :
    (s.setMc v).tickPeriod = s.tickPeriod := (rfl)
@[simp] theorem State.setMc_config (v : LongWord) : (s.setMc v).config = s.config := (rfl)
@[simp] theorem State.setMc_bootNext (v : LongWord) : (s.setMc v).bootNext = s.bootNext := (rfl)
@[simp] theorem State.setMc_notices (v : LongWord) :
    (s.setMc v).notices = { s.notices with multiplicand := true } := (rfl)
@[simp] theorem State.setMc_hostEvents (v : LongWord) :
    (s.setMc v).hostEvents = s.hostEvents := (rfl)

@[simp] theorem State.setMr_acc (v : LongWord) : (s.setMr v).acc = s.acc := (rfl)
@[simp] theorem State.setMr_mc (v : LongWord) : (s.setMr v).mc = s.mc := (rfl)
@[simp] theorem State.setMr_mr (v : LongWord) : (s.setMr v).mr = LongRegister.ofValue v := (rfl)
@[simp] theorem State.setMr_scr (v : LongWord) : (s.setMr v).scr = s.scr := (rfl)
@[simp] theorem State.setMr_ord (v : LongWord) : (s.setMr v).ord = s.ord := (rfl)
@[simp] theorem State.setMr_store (v : LongWord) : (s.setMr v).store = s.store := (rfl)
@[simp] theorem State.setMr_status (v : LongWord) : (s.setMr v).status = s.status := (rfl)
@[simp] theorem State.setMr_wait (v : LongWord) : (s.setMr v).wait = s.wait := (rfl)
@[simp] theorem State.setMr_ra (v : LongWord) : (s.setMr v).ra = s.ra := (rfl)
@[simp] theorem State.setMr_cause (v : LongWord) : (s.setMr v).cause = s.cause := (rfl)
@[simp] theorem State.setMr_stopReq (v : LongWord) : (s.setMr v).stopReq = s.stopReq := (rfl)
@[simp] theorem State.setMr_lp (v : LongWord) : (s.setMr v).lp = s.lp := (rfl)
@[simp] theorem State.setMr_ticks (v : LongWord) : (s.setMr v).ticks = s.ticks := (rfl)
@[simp] theorem State.setMr_tape (v : LongWord) : (s.setMr v).tape = s.tape := (rfl)
@[simp] theorem State.setMr_output (v : LongWord) : (s.setMr v).output = s.output := (rfl)
@[simp] theorem State.setMr_fnCode (v : LongWord) : (s.setMr v).fnCode = s.fnCode := (rfl)
@[simp] theorem State.setMr_tickPeriod (v : LongWord) :
    (s.setMr v).tickPeriod = s.tickPeriod := (rfl)
@[simp] theorem State.setMr_config (v : LongWord) : (s.setMr v).config = s.config := (rfl)
@[simp] theorem State.setMr_bootNext (v : LongWord) : (s.setMr v).bootNext = s.bootNext := (rfl)
@[simp] theorem State.setMr_notices (v : LongWord) :
    (s.setMr v).notices = { s.notices with multiplier := true } := (rfl)
@[simp] theorem State.setMr_hostEvents (v : LongWord) :
    (s.setMr v).hostEvents = s.hostEvents := (rfl)

@[simp] theorem State.setScr_acc (a : Addr) : (s.setScr a).acc = s.acc := (rfl)
@[simp] theorem State.setScr_mc (a : Addr) : (s.setScr a).mc = s.mc := (rfl)
@[simp] theorem State.setScr_mr (a : Addr) : (s.setScr a).mr = s.mr := (rfl)
@[simp] theorem State.setScr_scr (a : Addr) : (s.setScr a).scr = a := (rfl)
@[simp] theorem State.setScr_ord (a : Addr) : (s.setScr a).ord = s.ord := (rfl)
@[simp] theorem State.setScr_store (a : Addr) : (s.setScr a).store = s.store := (rfl)
@[simp] theorem State.setScr_status (a : Addr) : (s.setScr a).status = s.status := (rfl)
@[simp] theorem State.setScr_wait (a : Addr) : (s.setScr a).wait = s.wait := (rfl)
@[simp] theorem State.setScr_ra (a : Addr) : (s.setScr a).ra = s.ra := (rfl)
@[simp] theorem State.setScr_cause (a : Addr) : (s.setScr a).cause = s.cause := (rfl)
@[simp] theorem State.setScr_stopReq (a : Addr) : (s.setScr a).stopReq = s.stopReq := (rfl)
@[simp] theorem State.setScr_lp (a : Addr) : (s.setScr a).lp = s.lp := (rfl)
@[simp] theorem State.setScr_ticks (a : Addr) : (s.setScr a).ticks = s.ticks := (rfl)
@[simp] theorem State.setScr_tape (a : Addr) : (s.setScr a).tape = s.tape := (rfl)
@[simp] theorem State.setScr_output (a : Addr) : (s.setScr a).output = s.output := (rfl)
@[simp] theorem State.setScr_fnCode (a : Addr) : (s.setScr a).fnCode = s.fnCode := (rfl)
@[simp] theorem State.setScr_tickPeriod (a : Addr) : (s.setScr a).tickPeriod = s.tickPeriod := (rfl)
@[simp] theorem State.setScr_config (a : Addr) : (s.setScr a).config = s.config := (rfl)
@[simp] theorem State.setScr_bootNext (a : Addr) : (s.setScr a).bootNext = s.bootNext := (rfl)
@[simp] theorem State.setScr_notices (a : Addr) :
    (s.setScr a).notices = { s.notices with sequenceControl := true } := (rfl)
@[simp] theorem State.setScr_hostEvents (a : Addr) : (s.setScr a).hostEvents = s.hostEvents := (rfl)

@[simp] theorem State.setOrd_acc (w : Word) : (s.setOrd w).acc = s.acc := (rfl)
@[simp] theorem State.setOrd_mc (w : Word) : (s.setOrd w).mc = s.mc := (rfl)
@[simp] theorem State.setOrd_mr (w : Word) : (s.setOrd w).mr = s.mr := (rfl)
@[simp] theorem State.setOrd_scr (w : Word) : (s.setOrd w).scr = s.scr := (rfl)
@[simp] theorem State.setOrd_ord (w : Word) : (s.setOrd w).ord = w := (rfl)
@[simp] theorem State.setOrd_store (w : Word) : (s.setOrd w).store = s.store := (rfl)
@[simp] theorem State.setOrd_status (w : Word) : (s.setOrd w).status = s.status := (rfl)
@[simp] theorem State.setOrd_wait (w : Word) : (s.setOrd w).wait = s.wait := (rfl)
@[simp] theorem State.setOrd_ra (w : Word) : (s.setOrd w).ra = s.ra := (rfl)
@[simp] theorem State.setOrd_cause (w : Word) : (s.setOrd w).cause = s.cause := (rfl)
@[simp] theorem State.setOrd_stopReq (w : Word) : (s.setOrd w).stopReq = s.stopReq := (rfl)
@[simp] theorem State.setOrd_lp (w : Word) : (s.setOrd w).lp = s.lp := (rfl)
@[simp] theorem State.setOrd_ticks (w : Word) : (s.setOrd w).ticks = s.ticks := (rfl)
@[simp] theorem State.setOrd_tape (w : Word) : (s.setOrd w).tape = s.tape := (rfl)
@[simp] theorem State.setOrd_output (w : Word) : (s.setOrd w).output = s.output := (rfl)
@[simp] theorem State.setOrd_fnCode (w : Word) : (s.setOrd w).fnCode = s.fnCode := (rfl)
@[simp] theorem State.setOrd_tickPeriod (w : Word) : (s.setOrd w).tickPeriod = s.tickPeriod := (rfl)
@[simp] theorem State.setOrd_config (w : Word) : (s.setOrd w).config = s.config := (rfl)
@[simp] theorem State.setOrd_bootNext (w : Word) : (s.setOrd w).bootNext = s.bootNext := (rfl)
@[simp] theorem State.setOrd_notices (w : Word) :
    (s.setOrd w).notices = { s.notices with order := true } := (rfl)
@[simp] theorem State.setOrd_hostEvents (w : Word) : (s.setOrd w).hostEvents = s.hostEvents := (rfl)

@[simp] theorem State.memWrite_acc {k : Nat} (a : Addr) (v : BitVec k) :
    (s.memWrite a v).acc = s.acc := (rfl)
@[simp] theorem State.memWrite_mc {k : Nat} (a : Addr) (v : BitVec k) :
    (s.memWrite a v).mc = s.mc := (rfl)
@[simp] theorem State.memWrite_mr {k : Nat} (a : Addr) (v : BitVec k) :
    (s.memWrite a v).mr = s.mr := (rfl)
@[simp] theorem State.memWrite_scr {k : Nat} (a : Addr) (v : BitVec k) :
    (s.memWrite a v).scr = s.scr := (rfl)
@[simp] theorem State.memWrite_ord {k : Nat} (a : Addr) (v : BitVec k) :
    (s.memWrite a v).ord = s.ord := (rfl)
@[simp] theorem State.memWrite_store {k : Nat} (a : Addr) (v : BitVec k) :
    (s.memWrite a v).store = s.store.write (storeIndex a) (v.setWidth 17) := (rfl)
@[simp] theorem State.memWrite_status {k : Nat} (a : Addr) (v : BitVec k) :
    (s.memWrite a v).status = s.status := (rfl)
@[simp] theorem State.memWrite_wait {k : Nat} (a : Addr) (v : BitVec k) :
    (s.memWrite a v).wait = s.wait := (rfl)
@[simp] theorem State.memWrite_ra {k : Nat} (a : Addr) (v : BitVec k) :
    (s.memWrite a v).ra = s.ra := (rfl)
@[simp] theorem State.memWrite_cause {k : Nat} (a : Addr) (v : BitVec k) :
    (s.memWrite a v).cause = s.cause := (rfl)
@[simp] theorem State.memWrite_stopReq {k : Nat} (a : Addr) (v : BitVec k) :
    (s.memWrite a v).stopReq = s.stopReq := (rfl)
@[simp] theorem State.memWrite_lp {k : Nat} (a : Addr) (v : BitVec k) :
    (s.memWrite a v).lp = s.lp := (rfl)
@[simp] theorem State.memWrite_ticks {k : Nat} (a : Addr) (v : BitVec k) :
    (s.memWrite a v).ticks = s.ticks := (rfl)
@[simp] theorem State.memWrite_tape {k : Nat} (a : Addr) (v : BitVec k) :
    (s.memWrite a v).tape = s.tape := (rfl)
@[simp] theorem State.memWrite_output {k : Nat} (a : Addr) (v : BitVec k) :
    (s.memWrite a v).output = s.output := (rfl)
@[simp] theorem State.memWrite_fnCode {k : Nat} (a : Addr) (v : BitVec k) :
    (s.memWrite a v).fnCode = s.fnCode := (rfl)
@[simp] theorem State.memWrite_tickPeriod {k : Nat} (a : Addr) (v : BitVec k) :
    (s.memWrite a v).tickPeriod = s.tickPeriod := (rfl)
@[simp] theorem State.memWrite_config {k : Nat} (a : Addr) (v : BitVec k) :
    (s.memWrite a v).config = s.config := (rfl)
@[simp] theorem State.memWrite_bootNext {k : Nat} (a : Addr) (v : BitVec k) :
    (s.memWrite a v).bootNext = s.bootNext := (rfl)
@[simp] theorem State.memWrite_notices {k : Nat} (a : Addr) (v : BitVec k) :
    (s.memWrite a v).notices =
      { s.notices with store := noteIndex (storeIndex a) s.notices.store } := (rfl)
@[simp] theorem State.memWrite_hostEvents {k : Nat} (a : Addr) (v : BitVec k) :
    (s.memWrite a v).hostEvents = s.hostEvents := (rfl)

@[simp] theorem State.emit_acc (c : Code) : (s.emit c).acc = s.acc := (rfl)
@[simp] theorem State.emit_mc (c : Code) : (s.emit c).mc = s.mc := (rfl)
@[simp] theorem State.emit_mr (c : Code) : (s.emit c).mr = s.mr := (rfl)
@[simp] theorem State.emit_scr (c : Code) : (s.emit c).scr = s.scr := (rfl)
@[simp] theorem State.emit_ord (c : Code) : (s.emit c).ord = s.ord := (rfl)
@[simp] theorem State.emit_store (c : Code) : (s.emit c).store = s.store := (rfl)
@[simp] theorem State.emit_status (c : Code) : (s.emit c).status = s.status := (rfl)
@[simp] theorem State.emit_wait (c : Code) : (s.emit c).wait = s.wait := (rfl)
@[simp] theorem State.emit_ra (c : Code) : (s.emit c).ra = s.ra := (rfl)
@[simp] theorem State.emit_cause (c : Code) : (s.emit c).cause = s.cause := (rfl)
@[simp] theorem State.emit_stopReq (c : Code) : (s.emit c).stopReq = s.stopReq := (rfl)
@[simp] theorem State.emit_lp (c : Code) : (s.emit c).lp = s.lp := (rfl)
@[simp] theorem State.emit_ticks (c : Code) : (s.emit c).ticks = s.ticks := (rfl)
@[simp] theorem State.emit_tape (c : Code) : (s.emit c).tape = s.tape := (rfl)
@[simp] theorem State.emit_output (c : Code) : (s.emit c).output = s.output ++ [c] := (rfl)
@[simp] theorem State.emit_fnCode (c : Code) : (s.emit c).fnCode = s.fnCode := (rfl)
@[simp] theorem State.emit_tickPeriod (c : Code) : (s.emit c).tickPeriod = s.tickPeriod := (rfl)
@[simp] theorem State.emit_config (c : Code) : (s.emit c).config = s.config := (rfl)
@[simp] theorem State.emit_bootNext (c : Code) : (s.emit c).bootNext = s.bootNext := (rfl)
@[simp] theorem State.emit_notices (c : Code) : (s.emit c).notices = s.notices := (rfl)
@[simp] theorem State.emit_hostEvents (c : Code) : (s.emit c).hostEvents = s.hostEvents := (rfl)

@[simp] theorem State.raiseHalt_acc (c : Cause) : (s.raiseHalt c).acc = s.acc := (rfl)
@[simp] theorem State.raiseHalt_mc (c : Cause) : (s.raiseHalt c).mc = s.mc := (rfl)
@[simp] theorem State.raiseHalt_mr (c : Cause) : (s.raiseHalt c).mr = s.mr := (rfl)
@[simp] theorem State.raiseHalt_scr (c : Cause) : (s.raiseHalt c).scr = s.scr := (rfl)
@[simp] theorem State.raiseHalt_ord (c : Cause) : (s.raiseHalt c).ord = s.ord := (rfl)
@[simp] theorem State.raiseHalt_store (c : Cause) : (s.raiseHalt c).store = s.store := (rfl)
@[simp] theorem State.raiseHalt_status (c : Cause) : (s.raiseHalt c).status = .halted := (rfl)
@[simp] theorem State.raiseHalt_wait (c : Cause) : (s.raiseHalt c).wait = s.wait := (rfl)
@[simp] theorem State.raiseHalt_ra (c : Cause) : (s.raiseHalt c).ra = resetAllowed c := (rfl)
@[simp] theorem State.raiseHalt_cause (c : Cause) : (s.raiseHalt c).cause = c := (rfl)
@[simp] theorem State.raiseHalt_stopReq (c : Cause) : (s.raiseHalt c).stopReq = .none := (rfl)
@[simp] theorem State.raiseHalt_lp (c : Cause) : (s.raiseHalt c).lp = s.lp := (rfl)
@[simp] theorem State.raiseHalt_ticks (c : Cause) : (s.raiseHalt c).ticks = s.ticks := (rfl)
@[simp] theorem State.raiseHalt_tape (c : Cause) : (s.raiseHalt c).tape = s.tape := (rfl)
@[simp] theorem State.raiseHalt_output (c : Cause) : (s.raiseHalt c).output = s.output := (rfl)
@[simp] theorem State.raiseHalt_fnCode (c : Cause) : (s.raiseHalt c).fnCode = s.fnCode := (rfl)
@[simp] theorem State.raiseHalt_tickPeriod (c : Cause) :
    (s.raiseHalt c).tickPeriod = s.tickPeriod := (rfl)
@[simp] theorem State.raiseHalt_config (c : Cause) : (s.raiseHalt c).config = s.config := (rfl)
@[simp] theorem State.raiseHalt_bootNext (c : Cause) :
    (s.raiseHalt c).bootNext = s.bootNext := (rfl)
@[simp] theorem State.raiseHalt_notices (c : Cause) : (s.raiseHalt c).notices = s.notices := (rfl)
@[simp] theorem State.raiseHalt_hostEvents (c : Cause) :
    (s.raiseHalt c).hostEvents = s.hostEvents := (rfl)

@[simp] theorem State.resume_acc : (s.resume).acc = s.acc := (rfl)
@[simp] theorem State.resume_mc : (s.resume).mc = s.mc := (rfl)
@[simp] theorem State.resume_mr : (s.resume).mr = s.mr := (rfl)
@[simp] theorem State.resume_scr : (s.resume).scr = s.scr := (rfl)
@[simp] theorem State.resume_ord : (s.resume).ord = s.ord := (rfl)
@[simp] theorem State.resume_store : (s.resume).store = s.store := (rfl)
@[simp] theorem State.resume_status : (s.resume).status = .running := (rfl)
@[simp] theorem State.resume_wait : (s.resume).wait = s.wait := (rfl)
@[simp] theorem State.resume_ra : (s.resume).ra = s.ra := (rfl)
@[simp] theorem State.resume_cause : (s.resume).cause = .none := (rfl)
@[simp] theorem State.resume_stopReq : (s.resume).stopReq = s.stopReq := (rfl)
@[simp] theorem State.resume_lp : (s.resume).lp = s.lp := (rfl)
@[simp] theorem State.resume_ticks : (s.resume).ticks = s.ticks := (rfl)
@[simp] theorem State.resume_tape : (s.resume).tape = s.tape := (rfl)
@[simp] theorem State.resume_output : (s.resume).output = s.output := (rfl)
@[simp] theorem State.resume_fnCode : (s.resume).fnCode = s.fnCode := (rfl)
@[simp] theorem State.resume_tickPeriod : (s.resume).tickPeriod = s.tickPeriod := (rfl)
@[simp] theorem State.resume_config : (s.resume).config = s.config := (rfl)
@[simp] theorem State.resume_bootNext : (s.resume).bootNext = s.bootNext := (rfl)
@[simp] theorem State.resume_notices : (s.resume).notices = s.notices := (rfl)
@[simp] theorem State.resume_hostEvents : (s.resume).hostEvents = s.hostEvents := (rfl)

@[simp] theorem State.addTicks_acc (k : Nat) : (s.addTicks k).acc = s.acc := (rfl)
@[simp] theorem State.addTicks_mc (k : Nat) : (s.addTicks k).mc = s.mc := (rfl)
@[simp] theorem State.addTicks_mr (k : Nat) : (s.addTicks k).mr = s.mr := (rfl)
@[simp] theorem State.addTicks_scr (k : Nat) : (s.addTicks k).scr = s.scr := (rfl)
@[simp] theorem State.addTicks_ord (k : Nat) : (s.addTicks k).ord = s.ord := (rfl)
@[simp] theorem State.addTicks_store (k : Nat) : (s.addTicks k).store = s.store := (rfl)
@[simp] theorem State.addTicks_status (k : Nat) : (s.addTicks k).status = s.status := (rfl)
@[simp] theorem State.addTicks_wait (k : Nat) : (s.addTicks k).wait = s.wait := (rfl)
@[simp] theorem State.addTicks_ra (k : Nat) : (s.addTicks k).ra = s.ra := (rfl)
@[simp] theorem State.addTicks_cause (k : Nat) : (s.addTicks k).cause = s.cause := (rfl)
@[simp] theorem State.addTicks_stopReq (k : Nat) : (s.addTicks k).stopReq = s.stopReq := (rfl)
@[simp] theorem State.addTicks_lp (k : Nat) : (s.addTicks k).lp = s.lp := (rfl)
@[simp] theorem State.addTicks_ticks (k : Nat) : (s.addTicks k).ticks = s.ticks + k := (rfl)
@[simp] theorem State.addTicks_tape (k : Nat) : (s.addTicks k).tape = s.tape := (rfl)
@[simp] theorem State.addTicks_output (k : Nat) : (s.addTicks k).output = s.output := (rfl)
@[simp] theorem State.addTicks_fnCode (k : Nat) : (s.addTicks k).fnCode = s.fnCode := (rfl)
@[simp] theorem State.addTicks_tickPeriod (k : Nat) :
    (s.addTicks k).tickPeriod = s.tickPeriod := (rfl)
@[simp] theorem State.addTicks_config (k : Nat) : (s.addTicks k).config = s.config := (rfl)
@[simp] theorem State.addTicks_bootNext (k : Nat) : (s.addTicks k).bootNext = s.bootNext := (rfl)
@[simp] theorem State.addTicks_notices (k : Nat) :
    (s.addTicks k).notices =
      { s.notices with tickCount := tickNotice s.tickPeriod s.ticks (s.ticks + k) } := (rfl)
@[simp] theorem State.addTicks_hostEvents (k : Nat) :
    (s.addTicks k).hostEvents = s.hostEvents := (rfl)

@[simp] theorem State.charge_acc (k : Nat) : (s.charge k).acc = s.acc := (rfl)
@[simp] theorem State.charge_mc (k : Nat) : (s.charge k).mc = s.mc := (rfl)
@[simp] theorem State.charge_mr (k : Nat) : (s.charge k).mr = s.mr := (rfl)
@[simp] theorem State.charge_scr (k : Nat) : (s.charge k).scr = s.scr := (rfl)
@[simp] theorem State.charge_ord (k : Nat) : (s.charge k).ord = s.ord := (rfl)
@[simp] theorem State.charge_store (k : Nat) : (s.charge k).store = s.store := (rfl)
@[simp] theorem State.charge_status (k : Nat) : (s.charge k).status = s.status := (rfl)
@[simp] theorem State.charge_wait (k : Nat) : (s.charge k).wait = s.config.realtime := (rfl)
@[simp] theorem State.charge_ra (k : Nat) : (s.charge k).ra = s.ra := (rfl)
@[simp] theorem State.charge_cause (k : Nat) : (s.charge k).cause = s.cause := (rfl)
@[simp] theorem State.charge_stopReq (k : Nat) : (s.charge k).stopReq = s.stopReq := (rfl)
@[simp] theorem State.charge_lp (k : Nat) : (s.charge k).lp = s.lp := (rfl)
@[simp] theorem State.charge_ticks (k : Nat) : (s.charge k).ticks = s.ticks + k := (rfl)
@[simp] theorem State.charge_tape (k : Nat) : (s.charge k).tape = s.tape := (rfl)
@[simp] theorem State.charge_output (k : Nat) : (s.charge k).output = s.output := (rfl)
@[simp] theorem State.charge_fnCode (k : Nat) : (s.charge k).fnCode = s.fnCode := (rfl)
@[simp] theorem State.charge_tickPeriod (k : Nat) : (s.charge k).tickPeriod = s.tickPeriod := (rfl)
@[simp] theorem State.charge_config (k : Nat) : (s.charge k).config = s.config := (rfl)
@[simp] theorem State.charge_bootNext (k : Nat) : (s.charge k).bootNext = s.bootNext := (rfl)
@[simp] theorem State.charge_notices (k : Nat) :
    (s.charge k).notices =
      { s.notices with tickCount := tickNotice s.tickPeriod s.ticks (s.ticks + k) } := (rfl)
@[simp] theorem State.charge_hostEvents (k : Nat) : (s.charge k).hostEvents = s.hostEvents := (rfl)

end Sys2Proof.Machine
end

