-- ==== Sys2Proof/Laws/Store.lean ====
section
/-! SUPPORT. The store: the address mapping, read after write, and the canonical form that every write
keeps. -/

namespace Sys2Proof.Machine

/-- The mapping of rule R52 is reduction modulo 1024. -/
theorem storeIndex_eq (a : Addr) : storeIndex a = a.toNat % 1024 := by
  unfold storeIndex tankIndex tankOffset
  omega

theorem storeIndex_lt (a : Addr) : storeIndex a < 1024 := by
  rw [storeIndex_eq]
  omega

@[simp] theorem Store.read_nil (k : Nat) : Store.read [] k = 0#17 := rfl

theorem Store.wfFrom_mono {m : Store} {a b : Nat} (hab : a ≤ b) (h : Store.wfFrom b m = true) :
    Store.wfFrom a m = true := by
  cases m with
  | nil => rfl
  | cons e rest =>
    simp only [Store.wfFrom, Bool.and_eq_true, decide_eq_true_eq] at h ⊢
    exact ⟨⟨⟨by omega, h.1.1.2⟩, h.1.2⟩, h.2⟩

/-- Below its first index a canonical store lists nothing. -/
theorem Store.read_below {m : Store} {low k : Nat} (h : Store.wfFrom low m = true) (hk : k < low) :
    m.read k = 0#17 := by
  induction m generalizing low with
  | nil => rfl
  | cons e rest ih =>
    simp only [Store.wfFrom, Bool.and_eq_true, decide_eq_true_eq] at h
    have hne : e.1 ≠ k := by omega
    simpa [Store.read, hne] using ih h.2 (by omega)

/-- Reading back the index written gives the value written. -/
theorem Store.read_write_same {m : Store} {low : Nat} (h : Store.wfFrom low m = true) (k : Nat)
    (v : Word) : (m.write k v).read k = v := by
  induction m generalizing low with
  | nil => by_cases hv : v = 0#17 <;> simp [Store.write, Store.read, hv]
  | cons e rest ih =>
    simp only [Store.wfFrom, Bool.and_eq_true, decide_eq_true_eq] at h
    unfold Store.write
    by_cases hlt : e.1 < k
    · have hne : e.1 ≠ k := by omega
      simpa [hlt, Store.read, hne] using ih h.2
    · by_cases heq : e.1 = k
      · by_cases hv : v = 0#17
        · simpa [hlt, heq, hv] using Store.read_below h.2 (k := k) (by omega)
        · simp [heq, hv, Store.read]
      · by_cases hv : v = 0#17
        · have hbelow := Store.read_below h.2 (k := k) (by omega)
          simp [hlt, heq, hv, Store.read, hbelow]
        · simp [hlt, heq, hv, Store.read]

/-- A write leaves every other index alone, canonical or not. -/
theorem Store.read_write_other (m : Store) {j k : Nat} (v : Word) (h : j ≠ k) :
    (m.write k v).read j = m.read j := by
  have hkj : ¬ k = j := fun e => h e.symm
  induction m with
  | nil => by_cases hv : v = 0#17 <;> simp [Store.write, Store.read, hv, hkj]
  | cons e rest ih =>
    unfold Store.write
    by_cases hlt : e.1 < k
    · simp [hlt, Store.read, ih]
    · by_cases heq : e.1 = k
      · have hne : ¬ e.1 = j := by omega
        by_cases hv : v = 0#17 <;> simp [heq, hv, Store.read, hkj]
      · by_cases hv : v = 0#17 <;> simp [hlt, heq, hv, Store.read, hkj]

theorem Store.write_wfFrom {m : Store} {low k : Nat} (v : Word) (h : Store.wfFrom low m = true)
    (hlow : low ≤ k) (hk : k < 1024) : Store.wfFrom low (m.write k v) = true := by
  induction m generalizing low with
  | nil => by_cases hv : v = 0#17 <;> simp [Store.write, Store.wfFrom, hv, hlow, hk]
  | cons e rest ih =>
    simp only [Store.wfFrom, Bool.and_eq_true, decide_eq_true_eq] at h
    obtain ⟨⟨⟨h1, h2⟩, h3⟩, h4⟩ := h
    unfold Store.write
    by_cases hlt : e.1 < k
    · simp [hlt, Store.wfFrom, h1, h2, ih h4 (by omega)]
      simpa using h3
    · by_cases heq : e.1 = k
      · by_cases hv : v = 0#17
        · simpa [hlt, heq, hv] using Store.wfFrom_mono (by omega) h4
        · simp [heq, hv, Store.wfFrom, hlow, hk]
          simpa [← heq] using h4
      · by_cases hv : v = 0#17
        · simp only [hlt, heq, hv, if_true, if_false]
          simp [Store.wfFrom, h1, h2, h4]
          simpa using h3
        · have hle : k + 1 ≤ e.1 := by omega
          simp [hlt, heq, hv, Store.wfFrom, hlow, hk, hle, h2, h4]
          simpa using h3

/-- Every write keeps the canonical form. -/
theorem Store.write_wf {m : Store} {k : Nat} (v : Word) (h : m.wf = true) (hk : k < 1024) :
    (m.write k v).wf = true :=
  Store.write_wfFrom v h (Nat.zero_le k) hk

theorem State.memWrite_wf {s : State} {w : Nat} (a : Addr) (v : BitVec w) (h : s.store.wf = true) :
    (s.memWrite a v).store.wf = true :=
  Store.write_wf _ h (storeIndex_lt a)

/-- `MemRead` after `MemWrite`: the written word at every address of the same store index, and any other
address as before. -/
theorem State.memRead_memWrite {s : State} {w : Nat} (a b : Addr) (v : BitVec w)
    (h : s.store.wf = true) :
    (s.memWrite a v).memRead b =
      if storeIndex b = storeIndex a then v.setWidth 17 else s.memRead b := by
  unfold State.memRead
  by_cases hab : storeIndex b = storeIndex a
  · simpa [hab] using Store.read_write_same h (storeIndex a) (v.setWidth 17)
  · simpa [hab] using Store.read_write_other s.store (v.setWidth 17) hab

/-- The power-on store is canonical. -/
theorem reset_store_wf : State.reset.store.wf = true := rfl

end Sys2Proof.Machine
end

