-- ==== Sys2Proof/Laws/Ops.lean ====
section
/-! SUPPORT. One lemma per shared operation, saying once everything it can do: what it writes, and that
nothing else changes. -/

namespace Sys2Proof.Machine

/-! ### Composed values -/

theorem composeLong_toNat (lo : SlotWord) (hi : Word) :
    (composeLong lo hi).toNat = hi.toNat * 2 ^ 18 + lo.toNat := by
  have hlo := lo.isLt
  simp only [composeLong, BitVec.toNat_append, Nat.shiftLeft_eq]
  rw [Nat.mul_comm, Nat.two_pow_add_eq_or_of_lt hlo]

@[simp] theorem lowHalf_composeLong (lo : SlotWord) (hi : Word) : lowHalf (composeLong lo hi) = lo := by
  apply BitVec.eq_of_toNat_eq
  have hlo := lo.isLt
  simp only [lowHalf, BitVec.extractLsb'_toNat, composeLong_toNat, Nat.shiftRight_zero]
  omega

@[simp] theorem highHalf_composeLong (lo : SlotWord) (hi : Word) :
    highHalf (composeLong lo hi) = hi := by
  apply BitVec.eq_of_toNat_eq
  have hlo := lo.isLt
  have hhi := hi.isLt
  simp only [highHalf, BitVec.extractLsb'_toNat, composeLong_toNat, Nat.shiftRight_eq_div_pow]
  omega

@[simp] theorem composeLong_halves (v : LongWord) : composeLong (lowHalf v) (highHalf v) = v := by
  apply BitVec.eq_of_toNat_eq
  have hv := v.isLt
  simp only [composeLong_toNat, lowHalf, highHalf, BitVec.extractLsb'_toNat, Nat.shiftRight_eq_div_pow]
  omega

@[simp] theorem LongRegister.value_ofValue (v : LongWord) : (LongRegister.ofValue v).value = v := by
  simp [LongRegister.value, LongRegister.ofValue]

@[simp] theorem LongRegister.ofValue_value (r : LongRegister) : LongRegister.ofValue r.value = r := by
  simp [LongRegister.value, LongRegister.ofValue]

/-! ### Operands: only the store and the address matter -/

theorem memRead_congr {s t : State} (h : t.store = s.store) (a : Addr) : t.memRead a = s.memRead a := by
  simp [State.memRead, h]

theorem operand_congr {s t : State} (h : t.store = s.store) (n : Addr) (l : Bool) :
    operand t n l = operand s n l := by
  simp [operand, State.longRead, memRead_congr h]

/-! ### The adder -/

/-- `AddP`: the low words add, the carry goes into the high word, the carry out of it is lost, and
nothing but the accumulator proper (and its notice) changes. -/
theorem State.addP_spec (s : State) (v : LongWord) :
    s.addP v = { s with
      acc := { s.acc with
        w2 := s.acc.w2 + lowHalf v
        w3 := s.acc.w3 + highHalf v +
          (if 2 ^ 18 ≤ s.acc.w2.toNat + (lowHalf v).toNat then 1#17 else 0#17) }
      notices := { s.notices with accumulator := true } } := by
  have h2 := s.acc.w2.isLt
  have hl := (lowHalf v).isLt
  have hw2 : BitVec.ofNat 18 (s.acc.w2.toNat + (lowHalf v).toNat) = s.acc.w2 + lowHalf v := by
    apply BitVec.eq_of_toNat_eq
    simp
  have hw3 : BitVec.ofNat 17 (s.acc.w3.toNat + (highHalf v).toNat +
        (s.acc.w2.toNat + (lowHalf v).toNat) / 2 ^ 18) =
      s.acc.w3 + highHalf v +
        (if 2 ^ 18 ≤ s.acc.w2.toNat + (lowHalf v).toNat then 1#17 else 0#17) := by
    apply BitVec.eq_of_toNat_eq
    split <;> simp [BitVec.toNat_add, BitVec.toNat_ofNat] <;> omega
  simp only [State.addP, State.setProperWords, hw2, hw3]

/-- `SubP`: the low words subtract, the borrow comes from the high word, the borrow out of it is lost,
and nothing but the accumulator proper (and its notice) changes. -/
theorem State.subP_spec (s : State) (v : LongWord) :
    s.subP v = { s with
      acc := { s.acc with
        w2 := s.acc.w2 - lowHalf v
        w3 := s.acc.w3 - highHalf v -
          (if s.acc.w2.toNat < (lowHalf v).toNat then 1#17 else 0#17) }
      notices := { s.notices with accumulator := true } } := by
  have h2 := s.acc.w2.isLt
  have h3 := s.acc.w3.isLt
  have hl := (lowHalf v).isLt
  have hh := (highHalf v).isLt
  have hw2 : BitVec.ofInt 18 ((s.acc.w2.toNat : Int) - ((lowHalf v).toNat : Int)) =
      s.acc.w2 - lowHalf v := by
    apply BitVec.eq_of_toNat_eq
    simp only [BitVec.toNat_ofInt, BitVec.toNat_sub]
    omega
  have hw3 : BitVec.ofInt 17 ((s.acc.w3.toNat : Int) - ((highHalf v).toNat : Int) -
        (if (s.acc.w2.toNat : Int) - ((lowHalf v).toNat : Int) < 0 then 1 else 0)) =
      s.acc.w3 - highHalf v -
        (if s.acc.w2.toNat < (lowHalf v).toNat then 1#17 else 0#17) := by
    have hiff : ((s.acc.w2.toNat : Int) - ((lowHalf v).toNat : Int) < 0) ↔
        s.acc.w2.toNat < (lowHalf v).toNat := by omega
    apply BitVec.eq_of_toNat_eq
    by_cases h : s.acc.w2.toNat < (lowHalf v).toNat <;>
      simp only [hiff, h, if_true, if_false, BitVec.toNat_ofInt, BitVec.toNat_sub,
        BitVec.toNat_ofNat] <;> omega
  simp only [State.subP, State.setProperWords, hw2, hw3]

/-- Round-off writes `ACC` and changes nothing else. Rewrite a hypothesis with this lemma and `subst`
(the `cases` tactic unfolds the literal and runs out of recursion depth). -/
theorem execRoundOff_spec (s : State) :
    execRoundOff s = .next { s with
      acc := Accumulator.ofValue (s.acc.value + 0x800000000#71)
      notices := { s.notices with accumulator := true } } := rfl

/-! ### Multiplier, transfer, Read failure, fetch -/

/-- The multiplier writes `ACC`, clears `MC`, and changes nothing else. -/
theorem State.multiply_spec (s : State) (sub : Bool) :
    s.multiply sub = { s with
      acc := Accumulator.ofValue (BitVec.ofInt 71
        (if sub then (s.acc.value.toNat : Int) - product s.mc.value s.mr.value
         else (s.acc.value.toNat : Int) + product s.mc.value s.mr.value))
      mc := ⟨0#18, 0#17⟩
      notices := { s.notices with accumulator := true, multiplicand := true } } := rfl

/-- The word a transfer leaves at every address, for a canonical store. -/
theorem State.memRead_storeProper {s : State} (n : Addr) (l : Bool) (a : Addr)
    (h : s.store.wf = true) :
    (s.storeProper n l).memRead a =
      if storeIndex a = storeIndex (adj n l + if l then 1#11 else 0#11) then s.acc.w3
      else if l = true ∧ storeIndex a = storeIndex (adj n l) then s.acc.w2.setWidth 17
      else s.memRead a := by
  cases l
  · simp [State.storeProper, adj, State.memRead_memWrite _ _ _ h]
  · simp [State.storeProper, State.longWrite, State.memRead_memWrite _ _ _ h,
      State.memRead_memWrite _ _ _ (State.memWrite_wf _ _ h)]

/-- A transfer writes the store and changes nothing else. -/
theorem State.storeProper_frame (s : State) (n : Addr) (l : Bool) :
    s.storeProper n l = { s with
      store := (s.storeProper n l).store
      notices := { s.notices with store := (s.storeProper n l).notices.store } } := by
  cases l <;> rfl

theorem State.storeProper_wf {s : State} (n : Addr) (l : Bool) (h : s.store.wf = true) :
    (s.storeProper n l).store.wf = true := by
  cases l
  · exact State.memWrite_wf _ _ h
  · exact State.memWrite_wf _ _ (State.memWrite_wf _ _ h)

theorem State.failRead_spec (s : State) (c : Cause) :
    s.failRead c = { s with
      scr := s.scr - 1#11, status := .halted, ra := resetAllowed c, cause := c, stopReq := none
      notices := { s.notices with sequenceControl := true } } := rfl

theorem State.fetch_spec (s : State) :
    s.fetch = { s with
      scr := s.scr + 1#11, ord := s.fetchWord
      notices := { s.notices with sequenceControl := true, order := true } } := rfl

/-- What `TapeNext()` can answer. -/
theorem tapeNext_cases (tape : List TapeItem) :
    (∃ c rest, tape = .code c :: rest ∧ tapeNext tape = (.code c, rest)) ∨
    (∃ line char rest, tape = .invalidCharacter line char :: rest ∧
      tapeNext tape = (.invalidCharacter line char, rest)) ∨
    ((tape = [] ∨ ∃ rest, tape = .endOfTape :: rest) ∧ tapeNext tape = (.endOfTape, tape)) := by
  rcases tape with _ | ⟨_ | _ | _, rest⟩ <;> simp [tapeNext]

end Sys2Proof.Machine
end

