-- ==== Sys2Proof/Laws/PerInstr.lean ====
section
/-! SUPPORT. Facts about every order as syntax, one lemma per constructor. -/

namespace Sys2Proof.Laws

/-- Under every function-code table, the fields of an order's word are the order's code, address and
long flag (`30_encoding.md` rule R71). -/
def EncodeFields.Statement (i : Instr) : Prop :=
  ∀ fc : FnCode, codeField (encodeWith fc i) = orderCode fc i ∧
    addrField (encodeWith fc i) = i.address ∧ longField (encodeWith fc i) = i.long

/-- The fields of any word built by `enc`. -/
theorem fields_of_enc (i : Instr) : EncodeFields.Statement i := fun _ =>
  ⟨codeField_enc _ _ _, addrField_enc _ _ _, longField_enc _ _ _⟩

theorem EncodeFields.add (n : Addr) (l : Bool) :
    EncodeFields.Statement (.add n l) := fields_of_enc _

theorem EncodeFields.subtract (n : Addr) (l : Bool) :
    EncodeFields.Statement (.subtract n l) := fields_of_enc _

theorem EncodeFields.loadMultiplier (n : Addr) (l : Bool) :
    EncodeFields.Statement (.loadMultiplier n l) := fields_of_enc _

theorem EncodeFields.multiplyAdd (n : Addr) (l : Bool) :
    EncodeFields.Statement (.multiplyAdd n l) := fields_of_enc _

theorem EncodeFields.multiplySubtract (n : Addr) (l : Bool) :
    EncodeFields.Statement (.multiplySubtract n l) := fields_of_enc _

theorem EncodeFields.transfer (n : Addr) (l : Bool) :
    EncodeFields.Statement (.transfer n l) := fields_of_enc _

theorem EncodeFields.untransfer (n : Addr) (l : Bool) :
    EncodeFields.Statement (.untransfer n l) := fields_of_enc _

theorem EncodeFields.collate (n : Addr) (l : Bool) :
    EncodeFields.Statement (.collate n l) := fields_of_enc _

theorem EncodeFields.rightShift (n : Addr) (l : Bool) :
    EncodeFields.Statement (.rightShift n l) := fields_of_enc _

theorem EncodeFields.leftShift (n : Addr) (l : Bool) :
    EncodeFields.Statement (.leftShift n l) := fields_of_enc _

theorem EncodeFields.branchNonneg (n : Addr) (l : Bool) :
    EncodeFields.Statement (.branchNonneg n l) := fields_of_enc _

theorem EncodeFields.branchNeg (n : Addr) (l : Bool) :
    EncodeFields.Statement (.branchNeg n l) := fields_of_enc _

theorem EncodeFields.read (n : Addr) (l : Bool) :
    EncodeFields.Statement (.read n l) := fields_of_enc _

theorem EncodeFields.print (n : Addr) (l : Bool) :
    EncodeFields.Statement (.print n l) := fields_of_enc _

theorem EncodeFields.printCheck (n : Addr) (l : Bool) :
    EncodeFields.Statement (.printCheck n l) := fields_of_enc _

theorem EncodeFields.noop (n : Addr) (l : Bool) :
    EncodeFields.Statement (.noop n l) := fields_of_enc _

theorem EncodeFields.roundOff (n : Addr) (l : Bool) :
    EncodeFields.Statement (.roundOff n l) := fields_of_enc _

theorem EncodeFields.halt (n : Addr) (l : Bool) :
    EncodeFields.Statement (.halt n l) := fields_of_enc _

theorem EncodeFields.invalid (f : Code) (n : Addr) (l : Bool) :
    EncodeFields.Statement (.invalid f n l) := fields_of_enc _

end Sys2Proof.Laws
end

