-- ==== Sys2Proof/Laws/Step.lean ====
section
/-! SUPPORT. What a cycle, an engine step and a host operation can do, each said once. -/

namespace Sys2Proof.Machine

/-- A cycle that answers `next` had a well-formed table, ran the decoded order on the fetched state and
charged its cost. -/
theorem cycle_next {s t : State} (h : cycle s = .next t) :
    s.fnCode.wf = true ∧ ∃ i u, s.nextOrder = .ok i ∧ exec i s.fetch = .next u ∧
      t = u.charge s.nextCost := by
  unfold cycle at h
  split at h
  · cases h
  · rename_i i hi
    split at h
    · rename_i u hu
      exact ⟨wf_of_decodeWith hi, i, u, hi, hu, by simpa using h.symm⟩
    · cases h
    · cases h

/-- A cycle whose order's meaning answers `next` does so too. -/
theorem cycle_of_exec {s u : State} {i : Instr} (hi : s.nextOrder = .ok i)
    (hu : exec i s.fetch = .next u) : cycle s = .next (u.charge s.nextCost) := by
  unfold cycle
  rw [hi]
  dsimp only
  rw [hu]

/-- A cycle under an ill-formed table is refused. -/
theorem cycle_refused {s : State} (h : s.fnCode.wf = false) :
    cycle s = .refused .illFormedFnCode := by
  unfold cycle State.nextOrder
  rw [decodeWith_illFormed h]

/-- Everything the engine can do by itself in one step. -/
theorem engineStep_next {s t : State} (h : engineStep s = .next t) :
    (s.wait = true ∧ t = { s with wait := false }) ∨
    (s.wait = false ∧ (s.status = .idle ∨ s.status = .halted) ∧ t = s) ∨
    (s.wait = false ∧ s.status = .loading ∧ t = s.loadStep) ∨
    (s.wait = false ∧ s.status = .running ∧
      ((∃ k, s.stopReq = some k ∧ t = s.raiseHalt (stopCause k)) ∨
        (s.stopReq = none ∧ cycle s = .next t))) := by
  unfold engineStep at h
  cases hw : s.wait
  · cases hs : s.status <;> simp only [hw, hs] at h
    · exact .inr (.inl ⟨rfl, .inl rfl, by simpa using h.symm⟩)
    · exact .inr (.inr (.inl ⟨rfl, rfl, by simpa using h.symm⟩))
    · refine .inr (.inr (.inr ⟨rfl, rfl, ?_⟩))
      cases hr : s.stopReq <;> simp only [hr] at h
      · exact .inr ⟨rfl, by simpa using h⟩
      · exact .inl ⟨_, rfl, by simpa using h.symm⟩
    · exact .inr (.inl ⟨rfl, .inr rfl, by simpa using h.symm⟩)
  · rw [hw] at h
    exact .inl ⟨rfl, by simpa using h.symm⟩

/-- Everything one loader step can do. -/
theorem loadStep_cases (s : State) :
    (s.bootNext < s.ordersLength ∧ s.loadStep = { s with
      store := s.store.write (storeIndex (BitVec.ofNat 11 s.bootNext))
        (Config.initialOrderWord s.config.bootRev s.bootNext)
      ticks := s.ticks + 1000, bootNext := s.bootNext + 1
      notices := { s.notices with
        tickCount := tickNotice s.tickPeriod s.ticks (s.ticks + 1000)
        store := noteIndex (storeIndex (BitVec.ofNat 11 s.bootNext)) s.notices.store } }) ∨
    (s.ordersLength ≤ s.bootNext ∧ s.loadStep = { s with
      scr := 0#11, status := .running
      notices := { s.notices with sequenceControl := true } }) := by
  unfold State.loadStep
  by_cases h : s.bootNext < s.ordersLength
  · refine .inl ⟨h, ?_⟩
    simp [h, State.memWrite, State.addTicks]
  · refine .inr ⟨by omega, ?_⟩
    simp [h, State.setScr]

/-- A step is the host's next event, or the engine's own step when the host has none. -/
theorem step_cases (s : State) :
    (s.hostEvents = [] ∧ step s = engineStep { s with notices := {} }) ∨
    (∃ e rest, s.hostEvents = e :: rest ∧
      step s = hostAct e { s with notices := {}, hostEvents := rest }) := by
  unfold step advance
  cases h : s.hostEvents with
  | nil => exact .inl ⟨rfl, rfl⟩
  | cons e rest => exact .inr ⟨e, rest, rfl, rfl⟩

/-! ### The placed order -/

/-- The order that `withFetchWord` places is the one the next step fetches, and the state is a clean
launch of the program of that one order, under every precondition that it meets (`30_encoding.md` rule
R80, `70_reset_and_hazards.md` rule R247; log entry 2). The table question is asked under the default
table. -/
theorem withFetchWord_fetched {s : State} {nbits w : Nat} (hfc : s.fnCode.wf = true)
    (hwf : s.store.wf = true) (hw : w < 2 ^ 17) (hn : w < 2 ^ nbits) :
    (s.withFetchWord nbits w).fetchWord = BitVec.ofNat 17 w ∧
      (∀ pre : State → Prop, pre (s.withFetchWord nbits w) →
        CleanLaunch [(s.scr, BitVec.ofNat 17 w)] pre (s.withFetchWord nbits w)) ∧
      ∀ i : Instr, s.fnCode = defaultFnCode → decodeTableWord nbits w = some i →
        (s.withFetchWord nbits w).nextOrder = .ok i := by
  have hf : (s.withFetchWord nbits w).fetchWord = BitVec.ofNat 17 w := by
    simp [State.withFetchWord, State.fetchWord, State.memRead, Store.read_write_same hwf,
      Nat.mod_eq_of_lt hn]
  refine ⟨hf, fun pre hp => ⟨⟨hfc, rfl, rfl, rfl, rfl⟩, rfl, fun e he => ?_, hp⟩, fun i hd hi => ?_⟩
  · cases List.mem_singleton.mp he
    exact hf
  have hc : (s.withFetchWord nbits w).fnCode = defaultFnCode := hd
  unfold State.nextOrder
  rw [hf, hc]
  unfold decodeTableWord at hi
  rw [Nat.mod_eq_of_lt hn, if_pos hw] at hi
  split at hi
  · rename_i j hj
    cases hi
    exact hj
  · cases hi

/-! ### Runs -/

@[simp] theorem runSteps_zero (s : State) : runSteps 0 s = .next s := rfl

/-- A run of one step more is the first step and then the run from there. -/
theorem runSteps_succ {s t : State} (k : Nat) (h : step s = .next t) :
    runSteps (k + 1) s = runSteps k t := by
  rw [runSteps, h]

/-- A run of `j + k` steps whose first `j` give a state is the run of `k` steps from there. -/
theorem runSteps_add {s t : State} {j : Nat} (k : Nat) (h : runSteps j s = .next t) :
    runSteps (j + k) s = runSteps k t := by
  induction j generalizing s with
  | zero =>
    cases h
    rw [Nat.zero_add]
  | succ j ih =>
    rw [runSteps] at h
    rw [Nat.add_right_comm, runSteps]
    split at h
    · exact ih h
    · cases h
    · cases h

theorem runSteps_of_refused {s : State} {r : Refusal} (k : Nat) (h : step s = .refused r) :
    runSteps (k + 1) s = .refused r := by
  rw [runSteps, h]

theorem run_succ_of_next (M : Host.Core) {s t : M.State} (k : Nat) (h : M.step s = .next t) :
    M.run (k + 1) s = M.run k t := by
  rw [Host.Core.run, h]

theorem run_succ_of_refused (M : Host.Core) {s : M.State} {r : M.Refusal} (k : Nat)
    (h : M.step s = .refused r) : M.run (k + 1) s = .refused r := by
  rw [Host.Core.run, h]

/-- The run is the one of the host's interface. -/
theorem runSteps_eq_core_run (k : Nat) (s : State) : runSteps k s = core.run k s := by
  induction k generalizing s with
  | zero => rfl
  | succ k ih =>
    cases h : step s with
    | next t => exact (runSteps_succ k h).trans ((ih t).trans (run_succ_of_next core k h).symm)
    | fault r => cases r
    | refused r => exact (runSteps_of_refused k h).trans (run_succ_of_refused core k h).symm

/-- The step of a machine with a silent host is the engine's own. -/
theorem step_silent {s : State} (h : s.hostEvents = []) :
    step s = engineStep { s with notices := {} } := by
  unfold step advance
  rw [h]

/-- The step of a machine with a host event is that event's. -/
theorem step_event {s : State} {e : HostEvent} {rest : List HostEvent} (h : s.hostEvents = e :: rest) :
    step s = hostAct e { s with notices := {}, hostEvents := rest } := by
  unfold step advance
  rw [h]

end Sys2Proof.Machine
end

