-- ==== Sys2Proof/Tests/Slice0.lean ====
section
/-! SUPPORT. The model's own tests. Expected results are the spec's: the encodings of `30_encoding.md`
rules R71 and R74, and the vectors of `95_test_vectors.md`, named by their ids. The last section has one
witness for each statement that has hypotheses: concrete data that meet them together. -/

namespace Sys2Proof.Tests

open Sys2Proof.Machine

/-! ### Well-formedness: each check refuses an ill-formed term -/

/-- The default table with the code of Subtract (12) also given to Add. -/
def repeatedCode : FnCode := { defaultFnCode with add := 12#5 }

/-- The default table with code 0 for Right shift. -/
def zeroRight : FnCode := { defaultFnCode with rightShift := 0#5 }

/-- The default table with code 0 for Left shift. -/
def zeroLeft : FnCode := { defaultFnCode with leftShift := 0#5 }

theorem test_wf_default_table : defaultFnCode.wf = true := by decide
theorem test_wf_refuses_repeated_code : repeatedCode.wf = false := by decide
theorem test_wf_refuses_zero_right_shift : zeroRight.wf = false := by decide
theorem test_wf_refuses_zero_left_shift : zeroLeft.wf = false := by decide
theorem test_wf_refuses_assigned_invalid : (Instr.invalid 28 5 false).wf defaultFnCode = false := by decide
theorem test_wf_accepts_invalid : (Instr.invalid 29 2 true).wf defaultFnCode = true := by decide
theorem test_decoder_refuses_repeated_code :
    decodeWith repeatedCode 0b11100000000001010 = .error .illFormedFnCode := by rfl
theorem test_decoder_refuses_zero_shift :
    decodeWith zeroRight 0#17 = .error .illFormedFnCode ∧
      decodeWith zeroLeft 0#17 = .error .illFormedFnCode := ⟨rfl, rfl⟩

/-! ### Decoding: one word per order, written out field by field from rules R71 and R74
(`fffff nnnnnnnnnnn L`) -/

theorem test_decode_add : decode (0b11100#5 ++ 0b00000000101#11 ++ 0b0#1) = .ok (.add 5 false) := by rfl
theorem test_decode_subtract :
    decode (0b01100#5 ++ 0b00000000111#11 ++ 0b1#1) = .ok (.subtract 7 true) := by rfl
theorem test_decode_loadMultiplier :
    decode (0b10101#5 ++ 0b00001100100#11 ++ 0b0#1) = .ok (.loadMultiplier 100 false) := by rfl
theorem test_decode_multiplyAdd :
    decode (0b11111#5 ++ 0b11111111111#11 ++ 0b1#1) = .ok (.multiplyAdd 2047 true) := by rfl
theorem test_decode_multiplySubtract :
    decode (0b10110#5 ++ 0b00001100101#11 ++ 0b0#1) = .ok (.multiplySubtract 101 false) := by rfl
theorem test_decode_transfer :
    decode (0b00101#5 ++ 0b00000000110#11 ++ 0b1#1) = .ok (.transfer 6 true) := by rfl
theorem test_decode_untransfer :
    decode (0b00111#5 ++ 0b00000010101#11 ++ 0b1#1) = .ok (.untransfer 21 true) := by rfl
theorem test_decode_collate :
    decode (0b11110#5 ++ 0b00000000100#11 ++ 0b1#1) = .ok (.collate 4 true) := by rfl
theorem test_decode_rightShift :
    decode (0b00100#5 ++ 0b00000000110#11 ++ 0b0#1) = .ok (.rightShift 6 false) := by rfl
theorem test_decode_leftShift :
    decode (0b11001#5 ++ 0b10000000000#11 ++ 0b0#1) = .ok (.leftShift 1024 false) := by rfl
theorem test_decode_branchNonneg :
    decode (0b00011#5 ++ 0b00000101001#11 ++ 0b1#1) = .ok (.branchNonneg 41 true) := by rfl
theorem test_decode_branchNeg :
    decode (0b11011#5 ++ 0b00000000111#11 ++ 0b0#1) = .ok (.branchNeg 7 false) := by rfl
theorem test_decode_read :
    decode (0b01000#5 ++ 0b00001100101#11 ++ 0b1#1) = .ok (.read 101 true) := by rfl
theorem test_decode_print :
    decode (0b01001#5 ++ 0b00001100101#11 ++ 0b0#1) = .ok (.print 101 false) := by rfl
theorem test_decode_printCheck :
    decode (0b10001#5 ++ 0b00001100111#11 ++ 0b1#1) = .ok (.printCheck 103 true) := by rfl
theorem test_decode_noop :
    decode (0b11010#5 ++ 0b11111111111#11 ++ 0b1#1) = .ok (.noop 2047 true) := by rfl
theorem test_decode_roundOff :
    decode (0b00110#5 ++ 0b00000000000#11 ++ 0b0#1) = .ok (.roundOff 0 false) := by rfl
theorem test_decode_halt :
    decode (0b01101#5 ++ 0b00000000000#11 ++ 0b0#1) = .ok (.halt 0 false) := by rfl
theorem test_decode_invalid :
    decode (0b11101#5 ++ 0b00000000010#11 ++ 0b1#1) = .ok (.invalid 29 2 true) := by rfl

/-- `A 5 F` is `0x1C00A` and `T 6 D` is `0x0500D` (rule R83, vectors E1 and E2). -/
theorem test_encode_words :
    encode (.add 5 false) = 0x1C00A#17 ∧ encode (.transfer 6 true) = 0x0500D#17 := ⟨rfl, rfl⟩
theorem test_table_word : decodeTableWord 24 0x1C00A = some (.add 5 false) := by rfl
theorem test_table_word_too_wide : decodeTableWord 24 0x2C00A = none := by rfl

/-- Vectors E6 and E7. -/
theorem test_store_mapping :
    storeIndex 1034#11 = 10 ∧ storeIndex 2047#11 = 1023 ∧
      (tankIndex 37#11, tankOffset 37#11, storeIndex 37#11) = (1, 5, 37) := by decide

/-! ### One step of every order -/

/-- Running, `SCR = 10`, every register and store word 0 (the vectors' convention). -/
def base : State := { State.reset with status := .running, scr := 10#11 }

/-- The state after an outcome, if there is one. -/
def nextOf (o : Host.Outcome State Fault Refusal) : Option State :=
  match o with
  | .next t => some t
  | _ => none

/-- `base` with an order word at address 10 and data words in the store. -/
def given (order : Word) (data : List (Nat × Word)) : State :=
  { base with store := (data.foldl (fun m e => Store.write m e.1 e.2) []).write 10 order }

/-- What one step leaves. -/
def ran (s : State) : Option State := nextOf (step s)

/-- The Accumulator from its four words, low word first. -/
def acc (w0 w1 w2 : SlotWord) (w3 : Word) : Accumulator := ⟨w0, w1, w2, w3⟩

/-- A1. -/
theorem test_add_short :
    (ran (given 0x1C00A [(5, 3)])).map (fun t => (t.acc, t.mc.value, t.scr)) =
      some (acc 0 0 0 3, 0x0000C0000#35, 11#11) := by decide
/-- A2. -/
theorem test_add_long_carries :
    (ran { given 0x1C00D [(6, 1)] with acc := acc 0 0 0x3FFFF 0 }).map (fun t => (t.acc, t.mc.value)) =
      some (acc 0 0 0 1, 1#35) := by decide
/-- S3d. -/
theorem test_subtract_long_borrows :
    (ran (given 0x0C00F [(6, 1)])).map (·.acc) = some (acc 0 0 0x3FFFF 0x1FFFF) := by decide
/-- S4d. -/
theorem test_subtract_wraps :
    (ran { given 0x0C00A [(5, 0x1FFFF)] with acc := acc 0 0 0 0x0FFFF }).map (·.acc) =
      some (acc 0 0 0 0x10000) := by decide
/-- C1: `MC` stays 0. -/
theorem test_collate_short :
    (ran { given 0x1E00A [(5, 6)] with mr := ⟨0, 0xF⟩ }).map (fun t => (t.acc, t.mc.value)) =
      some (acc 0 0 0 6, 0#35) := by decide
/-- C2. -/
theorem test_collate_long :
    (ran { given 0x1E009 [(4, 0x00F0F), (5, 7)] with mr := ⟨0x3FFFF, 3⟩ }).map (·.acc) =
      some (acc 0 0 0x00F0F 3) := by decide
/-- Y3. -/
theorem test_roundOff_carries_through :
    (ran { given 0x06000 [] with acc := acc 0 0x20000 0x3FFFF 0x1FFFF }).map (·.acc) =
      some (acc 0 0 0 0) := by decide
/-- Y4. -/
theorem test_roundOff_keeps_low_bits :
    (ran { given 0x06000 [] with acc := acc 5 0x1FFFF 0 0 }).map (·.acc) =
      some (acc 5 0x3FFFF 0 0) := by decide
/-- H2. -/
theorem test_loadMultiplier_long :
    (ran (given 0x150CB [(100, 1), (101, 0x08000)])).map (fun t => (t.mr.value, t.acc)) =
      some (0x200000001#35, acc 0 0 0 0) := by decide
/-- V1. -/
theorem test_multiplyAdd_halves :
    (ran { given 0x1F0CA [(101, 0x08000)] with mr := ⟨0, 0x08000⟩ }).map
      (fun t => (t.acc, t.mc.value, t.ticks)) = some (acc 0 0 0 0x04000, 0#35, 60) := by decide
/-- V4. -/
theorem test_multiplyAdd_wraps :
    (ran { given 0x1F0CA [(101, 0x10000)] with mr := ⟨0, 0x10000⟩ }).map (·.acc) =
      some (acc 0 0 0 0x10000) := by decide
/-- N1. -/
theorem test_multiplySubtract_halves :
    (ran { given 0x160CA [(101, 0x08000)] with mr := ⟨0, 0x08000⟩ }).map (fun t => (t.acc, t.ticks)) =
      some (acc 0 0 0 0x1C000, 60) := by decide
/-- N2. -/
theorem test_multiplySubtract_signs :
    (ran { given 0x160CA [(101, 0x18000)] with mr := ⟨0, 0x18000⟩ }).map (·.acc) =
      some (acc 0 0 0 0x1C000) := by decide
/-- T1. -/
theorem test_transfer_clears_all :
    (ran { given 0x05028 [] with acc := acc 1 2 3 0x01234 }).map
      (fun t => (t.store.read 20, t.acc)) = some (0x01234#17, acc 0 0 0 0) := by decide
/-- T2. -/
theorem test_transfer_drops_sandwich_bit :
    (ran { given 0x05013 [] with acc := acc 0 0 0x20001 0x0000C }).map
      (fun t => (t.store.read 8, t.store.read 9)) = some (1#17, 0xC#17) := by decide
/-- U2. -/
theorem test_untransfer_long :
    (ran { given 0x0702B [] with acc := acc 7 7 0x1ABCD 0x00042 }).map
      (fun t => (t.store.read 20, t.store.read 21, t.acc)) =
      some (0x1ABCD#17, 0x42#17, acc 7 7 0x1ABCD 0x00042) := by decide
/-- R2. -/
theorem test_rightShift_crosses_words :
    (ran { given 0x04001 [] with acc := acc 0 0 1 0 }).map (·.acc) = some (acc 0 0x20000 0 0) := by decide
/-- R3: count 15. -/
theorem test_rightShift_sign :
    (ran { given 0x04000 [] with acc := acc 0 0 0 0x1FFFF }).map (·.acc) =
      some (acc 0 0 0x3FFF8 0x1FFFF) := by decide
/-- L5. -/
theorem test_leftShift_words :
    (ran { given 0x19001 [] with acc := acc 0 0 0x3FFFF 0x0FFFF }).map (·.acc) =
      some (acc 0 0 0x3FFFE 0x1FFFF) := by decide
/-- L6: count 13. -/
theorem test_leftShift_prefix_count :
    (ran { given 0x19000 [] with acc := acc 0x3FFFF 0 0 0 }).map (·.acc) =
      some (acc 0x3E000 0x01FFF 0 0) := by decide
/-- B3c: the target is not adjusted. -/
theorem test_branchNonneg_unadjusted :
    (ran (given 0x03053 [])).map (·.scr) = some 41#11 := by decide
/-- B2c. -/
theorem test_branchNonneg_falls_through :
    (ran { given 0x03050 [] with acc := acc 0 0 0 0x10000 }).map (·.scr) = some 11#11 := by decide
/-- B5c. -/
theorem test_branchNeg_taken :
    (ran { given 0x1B00E [] with acc := acc 0 0 0 0x1FFFF }).map (·.scr) = some 7#11 := by decide
/-- B7c: only the sign bit is tested. -/
theorem test_branchNeg_tests_sign_only :
    (ran { given 0x1B00E [] with acc := acc 5 0 0 0 }).map (·.scr) = some 11#11 := by decide
/-- X2. -/
theorem test_noop :
    (ran (given 0x1AFFF [])).map (fun t => (t.scr, t.ticks, t.ord)) =
      some (11#11, 15, 0x1AFFF#17) := by decide
/-- Z1. -/
theorem test_halt :
    (ran (given 0x0D000 [])).map (fun t => (t.status, t.ra, t.cause, t.scr, t.ticks)) =
      some (.halted, true, .haltOrder, 11#11, 15) := by decide
/-- IV1. -/
theorem test_invalid_zero :
    (ran base).map (fun t => (t.status, t.ra, t.cause, t.scr, t.ticks)) =
      some (.halted, false, .invalidOrder, 11#11, 15) := by decide
/-- IV2. -/
theorem test_invalid_29 :
    (ran (given 0x1D005 [])).map (fun t => (t.cause, t.ord)) =
      some (.invalidOrder, 0x1D005#17) := by decide
/-- I2: one word, at the even address. -/
theorem test_read_long :
    (ran { given 0x080CB [(101, 9)] with tape := [.code 3] }).map
      (fun t => (t.store.read 100, t.store.read 101, t.tape, t.ticks)) = some (3#17, 9#17, [], 215) := by
  decide
/-- I5: the decrement of `SCR` wraps. -/
theorem test_read_end_of_tape_wraps :
    (ran { base with store := [(1023, 0x080C8#17)], scr := 2047#11 }).map
      (fun t => (t.scr, t.ra, t.cause)) = some (2047#11, true, .tapeEnd) := by decide
/-- O2. -/
theorem test_print_order_word :
    (ran (given 0x0900A [(5, 0x1C00A)])).map (fun t => (t.output, t.lp, t.ticks)) =
      some ([28#5], 28#5, 1515) := by decide
/-- F2: one word, at the even address. -/
theorem test_printCheck_long :
    (ran { given 0x110CF [(103, 9)] with lp := 31#5 }).map
      (fun t => (t.store.read 102, t.store.read 103)) = some (0x1F000#17, 9#17) := by decide

/-! ### Host operations -/

/-- Another table: Right shift has the code 2 and Halt the code 4 (rules R73 and R150). -/
def otherTable : FnCode := { defaultFnCode with rightShift := 2#5, halt := 4#5 }

/-- Under it `R 0 F` is `0x02000` and shifts by 14: the lowest set bit of code 2 is bit 13 of the order
word (rule R150). -/
theorem test_other_table_shift :
    (ran { given 0x02000 [] with fnCode := otherTable, acc := acc 0 0 0 0x08000 }).map (·.acc) =
      some (acc 0 0 0x00000 0x00002) := by decide
/-- Under it the default's `R 0 D` is `Z 0 D`. -/
theorem test_other_table_halt :
    (ran { given 0x04001 [] with fnCode := otherTable }).map (fun t => (t.cause, t.fnCode)) =
      some (.haltOrder, otherTable) := by decide
/-- A machine under a table that breaks rule R76 refuses its cycle. -/
theorem test_ill_formed_table_refused :
    step { base with fnCode := zeroRight } = .refused .illFormedFnCode := by rfl

/-- The tick count is notified when it reaches or passes a multiple of the period (rule R227). -/
theorem test_tick_notice :
    (ran { given 0x1A000 [] with ticks := 90, tickPeriod := 100 }).map (·.notices.tickCount) =
        some (some 105) ∧
      (ran { given 0x1A000 [] with ticks := 80, tickPeriod := 100 }).map (·.notices.tickCount) =
        some none := by decide

/-- I4 and S6: the line and the character are reported, and `reset` is not allowed. -/
theorem test_read_invalid_character :
    (ran { given 0x080C8 [] with tape := [.invalidCharacter 4 65, .code 1] }).map
      (fun t => (t.ra, t.cause, t.tape.length, t.notices.tapeReport)) =
      some (false, .tapeError, 1, some (4, 65)) := by decide
/-- B5: `reset` straight after power-on has no effect. -/
theorem test_reset_refused_at_power_on :
    ran { State.reset with hostEvents := [.reset] } = some State.reset := by decide
/-- B8: a single step of `X 0 F`. -/
theorem test_single_step :
    (ran { given 0x1A000 [] with
        status := .halted, ra := true, cause := .operatorStop, hostEvents := [.step] }).map
      (fun t => (t.scr, t.status, t.ra, t.ticks)) = some (11#11, .halted, true, 15) := by decide
/-- B9: a kill during the pacing wait after an order. -/
theorem test_kill_ends_wait :
    ((ran { base with wait := true, ticks := 1515, hostEvents := [.kill] }).bind ran).map
      (fun t => (t.wait, t.status, t.cause, t.ra, t.ticks)) =
      some (false, .halted, .operatorKill, true, 1515) := by decide
/-- A write through address 1034 is noted under index 10 (log entry 11). -/
theorem test_store_notice_index : (base.memWrite 1034#11 3#17).notices.store = [10] := by decide
/-- The store keeps its canonical form when a word becomes 0 again. -/
theorem test_store_canonical :
    Store.write (Store.write (Store.write [] 7 3#17) 2 5#17) 7 0#17 = [(2, 5#17)] := by decide

/-! ### Witnesses: data that meet the hypotheses of each statement together -/

/-- The table of `base` is one that rule R76 admits. -/
theorem admitted : defaultFnCode.wf = true := by decide

/-- `base` with its next order word placed: ready to run it. -/
theorem ready_given (w : Word) (data : List (Nat × Word)) : ReadyToCycle (given w data) :=
  ⟨admitted, rfl, rfl, rfl, rfl⟩

/-- A halted machine with a data word at address 5. -/
def haltedGiven : State := { given 0 [(5, 3)] with status := .halted, cause := .haltOrder }
theorem haltedGiven_canonical : haltedGiven.store.wf = true := by decide

/-- The launch premise (rule R247) is met by an order placed in a halted machine, whose cause goes, with a
precondition on a word that the order reads. -/
theorem witness_CleanLaunch :
    CleanLaunch [(10#11, 0x1C00A#17)] (fun u => u.memRead 5#11 = 3#17)
      (haltedGiven.withFetchWord 24 0x1C00A) :=
  (withFetchWord_fetched admitted haltedGiven_canonical (by decide) (by decide)).2.1 _ rfl
theorem witness_DecodeOfEncodeIsTheOrder :
    defaultFnCode.wf = true ∧ (Instr.multiplyAdd 2047 true).wf defaultFnCode = true ∧
      (Instr.invalid 0 0 false).wf defaultFnCode = true := by decide
theorem witness_EveryWordIsOneOrder :
    defaultFnCode.wf = true ∧ (Instr.halt 0 false).wf defaultFnCode = true ∧
      encodeWith defaultFnCode (.halt 0 false) = 0x0D000#17 := by decide
theorem witness_DispatchTableEntries :
    defaultFnCode.wf = true ∧ (∀ op : Operation, defaultFnCode.code op ≠ 0#5) ∧
      ∀ op : Operation, defaultFnCode.code op ≠ 29#5 :=
  ⟨by decide, fun op => by cases op <;> decide, fun op => by cases op <;> decide⟩
theorem witness_TickCostTable :
    defaultFnCode.wf = true ∧ ∀ op : Operation, defaultFnCode.code op ≠ 2#5 :=
  ⟨by decide, fun op => by cases op <;> decide⟩
/-- A store with a word at each end, addresses 2047 and 1023 that name the same word, and one apart. -/
theorem witness_StoreMappingAndAccess :
    Store.wf [(0, 7#17), (1023, 5#17)] = true ∧ (2047#11).toNat % 1024 = (1023#11).toNat % 1024 ∧
      (0#11).toNat % 1024 ≠ (1023#11).toNat % 1024 := by decide
/-- A control word with its lowest bit at 0 and one with it at 16, and a nonzero function code. -/
theorem witness_ShiftCountIsLowestSetBit :
    (0x1FFFF#17 ≠ 0#17 ∧ shiftLength 0x1FFFF#17 = 0 + 1) ∧
      (0x10000#17 ≠ 0#17 ∧ shiftLength 0x10000#17 = 16 + 1) ∧ (16#5 ≠ 0#5) := by decide
/-- Lowest set bits 0 and 10 of an address, and 4 of a code. -/
theorem witness_ShiftCountsOfOrders :
    (2 ^ 0 ∣ (2047#11).toNat ∧ ¬ 2 ^ (0 + 1) ∣ (2047#11).toNat) ∧
      (2 ^ 10 ∣ (1024#11).toNat ∧ ¬ 2 ^ (10 + 1) ∣ (1024#11).toNat) ∧
      (2 ^ 4 ∣ (16#5).toNat ∧ ¬ 2 ^ (4 + 1) ∣ (16#5).toNat) := by decide
/-- Both operands zero, and only the operand zero. -/
theorem witness_MultiplyLaws :
    operand base 100#11 false = 0#35 ∧ base.mr.value = 0#35 := by decide
theorem witness_TransferResult : (given 0x05028 [(1023, 4)]).store.wf = true := by decide
/-- The long pair at the top of the store: indices 1022 and 1023. -/
theorem witness_StoreThenAddBack :
    (given 0 [(1023, 4)]).store.wf = true ∧ storeIndex (adj 2047#11 true) = 1022 ∧
      storeIndex (adj 2047#11 true + 1#11) = 1023 := by decide
theorem witness_StoredWordIsFetchedNext :
    ReadyToCycle (given 0x07016 []) ∧ (given 0x07016 []).store.wf = true ∧
      (given 0x07016 []).nextOrder = .ok (.untransfer ((given 0x07016 []).scr + 1#11) false) :=
  ⟨ready_given _ _, by decide, rfl⟩
/-- Counts 1 and 12, each the same for R and L. -/
theorem witness_ShiftLaws :
    shiftCount base.fnCode.rightShift 6#11 true = shiftCount base.fnCode.leftShift 0#11 true ∧
      shiftCount base.fnCode.rightShift 1024#11 false = shiftCount base.fnCode.leftShift 1024#11 false := by
  decide
theorem witness_NoopCycle :
    ReadyToCycle (given 0x1AFFF []) ∧
      codeField (given 0x1AFFF []).fetchWord = (given 0x1AFFF []).fnCode.noop :=
  ⟨ready_given _ _, by decide⟩
theorem witness_HaltCycle :
    ReadyToCycle (given 0x0D000 []) ∧
      codeField (given 0x0D000 []).fetchWord = (given 0x0D000 []).fnCode.halt :=
  ⟨ready_given _ _, by decide⟩
/-- A zero word and code 29. -/
theorem witness_InvalidCycle :
    (ReadyToCycle base ∧ ∀ op : Operation, base.fnCode.code op ≠ codeField base.fetchWord) ∧
      (ReadyToCycle (given 0x1D005 []) ∧
        ∀ op : Operation, (given 0x1D005 []).fnCode.code op ≠ codeField (given 0x1D005 []).fetchWord) :=
  ⟨⟨⟨admitted, rfl, rfl, rfl, rfl⟩, fun op => by cases op <;> decide⟩,
    ready_given _ _, fun op => by cases op <;> decide⟩
theorem witness_ReadStoresCode :
    (given 0x080CB [(101, 9)]).store.wf = true ∧
      { given 0x080CB [(101, 9)] with tape := [.code 31, .endOfTape] }.tape =
        .code 31 :: [.endOfTape] := by decide
/-- A Read with an empty tape, at an end item and at an invalid character. -/
theorem witness_FailedReadCycle :
    (ReadyToCycle (given 0x080C8 []) ∧
      codeField (given 0x080C8 []).fetchWord = (given 0x080C8 []).fnCode.read ∧
      (given 0x080C8 []).tape = []) ∧
    (let s := { given 0x080C8 [] with tape := [.endOfTape, .code 1] }
     ReadyToCycle s ∧ codeField s.fetchWord = s.fnCode.read ∧ s.tape.head? = some .endOfTape) ∧
    (let s := { given 0x080C8 [] with tape := [.invalidCharacter 1 0] }
     ReadyToCycle s ∧ codeField s.fetchWord = s.fnCode.read ∧ s.tape = .invalidCharacter 1 0 :: []) :=
  ⟨⟨ready_given _ _, by decide, rfl⟩, ⟨⟨admitted, rfl, rfl, rfl, rfl⟩, by decide, rfl⟩,
    ⟨admitted, rfl, rfl, rfl, rfl⟩, by decide, rfl⟩
/-- A short Print, and a long one at the top address for either value of the parameter. -/
theorem witness_PrintResult :
    ((false = false → (5#11) = 5#11) ∧ (false = true → (5#11).toNat = 2 * ((5#11).toNat / 2))) ∧
    ∃ a : Addr, (Config.printLongAddr = .even → a.toNat = 2 * ((2047#11).toNat / 2)) ∧
      (Config.printLongAddr = .odd → a.toNat = 2 * ((2047#11).toNat / 2) + 1) := by
  refine ⟨by decide, ?_⟩
  cases Config.printLongAddr
  · exact ⟨2046#11, fun _ => rfl, nofun⟩
  · exact ⟨2047#11, nofun, fun _ => rfl⟩
theorem witness_PrintCheckResult : (given 0x110CF [(103, 9)]).store.wf = true := by decide
theorem witness_PrintThenCheck :
    (given 0 [(5, 0x1C00A)]).store.wf = true ∧ (given 0 [(5, 0x1C00A)]).memRead 5 = 0x1C00A#17 := by
  decide
theorem witness_ReadShiftPrint :
    let s := { base with tape := [.code 28] }
    s.store.wf = true ∧ s.tape = .code 28 :: [] ∧ s.acc = ⟨0#18, 0#18, 0#18, 0#17⟩ := by decide
/-- In the run loop, and as a permitted single step. -/
theorem witness_StepRunsTheDecodedOrder :
    (runsCycle (given 0x1C00A []) = true ∧ (given 0x1C00A []).nextOrder = .ok (.add 5 false)) ∧
    (let s := { given 0x0D000 [] with status := .halted, ra := true, hostEvents := [.step] }
     runsCycle s = true ∧ s.nextOrder = .ok (.halt 0 false)) :=
  ⟨⟨by decide, rfl⟩, by decide, rfl⟩
theorem consistent_base : Consistent base :=
  ⟨by decide, rfl, by decide, by decide, by decide, by decide, by decide, fun h => by cases h⟩
/-- The step of a zero word halts, from a consistent running state. -/
theorem witness_StepKeepsConsistent :
    Consistent base ∧ ∃ t : State, step base = .next t ∧ t.status = .halted :=
  ⟨consistent_base, _, rfl, rfl⟩
/-- Both tables: one that rule R76 admits, and one that it does not, in a state that runs a cycle. -/
theorem witness_EveryStepAnswersNext :
    base.fnCode.wf = true ∧ { base with fnCode := zeroRight }.fnCode.wf = false ∧
      runsCycle { base with fnCode := zeroRight } = true ∧
      runsCycle { State.reset with fnCode := zeroRight } = false := by decide
theorem witness_PowerOnIsConsistent : defaultFnCode.wf = true ∧ otherTable.wf = true := by decide
/-- The four rows of the transition table: a start, the end of loading, a halt, a reset. -/
theorem witness_ExecutionStateTransitions :
    (∃ t : State, step { State.reset with hostEvents := [.start] } = .next t ∧ t.status = .loading) ∧
    (∃ t : State, step { State.reset with status := .loading, bootNext := 1024 } = .next t ∧
      t.status = .running) ∧
    (∃ t : State, step base = .next t ∧ t.status = .halted) ∧
    (∃ t : State, step { base with stopReq := some .kill } = .next t ∧ t.status = .halted) ∧
    (∃ t : State, step { base with status := .halted, ra := true, hostEvents := [.reset] } = .next t ∧
      t.status = .running) := by
  refine ⟨⟨_, rfl, ?_⟩, ⟨_, rfl, ?_⟩, ⟨_, rfl, rfl⟩, ⟨_, rfl, rfl⟩, ⟨_, rfl, rfl⟩⟩
  · cases h : Config.startClears <;>
      simp [State.hostStart, State.atRest, State.reset, State.powerOn, State.beginLoading, h,
        State.clearTanks]
  · have h := (Config.initialOrdersLength BootRev.one).isLt
    have hn : ¬ 1024 < (Config.initialOrdersLength BootRev.one).val := by omega
    unfold State.loadStep
    split
    · rename_i h
      exact absurd h hn
    · rfl
theorem witness_RestingEngineWaits :
    (State.reset.status = .idle ∧ State.reset.hostEvents = []) ∧
      ({ base with status := .halted }.status = .halted ∧
        { base with status := .halted }.hostEvents = []) ∧
      ({ base with wait := true }.wait = true ∧ { base with wait := true }.hostEvents = []) := by decide
/-- `loading`, the loader at its first word. -/
def loadingState : State := { State.reset with status := .loading }

/-- A step with a cycle, one without, and a step in `loading`: it loads a word unless the list of initial
orders, which is free (log entry 7), is empty. -/
theorem witness_TicksOnlyFromCyclesAndLoading :
    (runsCycle base = true ∧ ∃ t : State, step base = .next t) ∧
      (runsCycle State.reset = false ∧ loadsWord State.reset = false ∧
        ∃ t : State, step State.reset = .next t) ∧
      (runsCycle loadingState = false ∧ (∃ t : State, step loadingState = .next t) ∧
        (0 < loadingState.ordersLength → loadsWord loadingState = true)) :=
  ⟨⟨rfl, _, rfl⟩, ⟨rfl, rfl, _, rfl⟩, rfl, ⟨_, rfl⟩, fun h => by
    have hb : loadingState.bootNext = 0 := rfl
    have hq : (hostQuiet loadingState && !loadingState.wait && loadingState.status == .loading) = true :=
      rfl
    unfold loadsWord
    rw [hq, hb]
    simpa using h⟩
theorem witness_TimingIsNoInput : ∃ t : State, cycle (given 0x0900A [(5, 0x1C00A)]) = .next t :=
  ⟨_, rfl⟩
theorem witness_MultiplicandIsNeverRead : ∃ t : State, step (given 0x1F0CA []) = .next t := ⟨_, rfl⟩
/-- An order that changes registers and one that changes the control state. -/
theorem witness_OrdersWriteOnlyTheirOwn :
    (∃ t : State, exec (.loadMultiplier 10 false) (given 5 []) = .next t ∧
      t.mr ≠ (given 5 []).mr) ∧
    ∃ t : State, exec (.halt 0 false) base = .next t ∧ t.status ≠ base.status :=
  ⟨⟨_, rfl, by decide⟩, _, rfl, by decide⟩
/-- A step that changes `SCR`, `ORD`, `MR`, and one that changes store word 20. -/
theorem witness_ChangesAreNotified :
    (∃ t : State, step (given 0x15014 []) = .next t ∧ t.scr ≠ base.scr ∧
      t.ord ≠ base.ord ∧ t.mr ≠ base.mr) ∧
    ∃ t : State, step { given 0x07028 [] with acc := acc 0 0 0 9 } = .next t ∧
      t.store.read 20 ≠ (given 0x07028 []).store.read 20 :=
  ⟨⟨_, rfl, by decide, by decide, by decide⟩, _, rfl, by decide⟩
theorem witness_StopAndKillHalt :
    let s (w : Bool) (r : Option StopKind) (e : HostEvent) : State :=
      { base with wait := w, stopReq := r, hostEvents := [e] }
    ((s false none .stop).stopReq ≠ some .kill ∧ (s false none .stop).hostEvents = [.stop]) ∧
    ((s true none .stop).stopReq ≠ some .kill ∧ (s true none .stop).wait = true) ∧
    ((s false (some .kill) .stop).stopReq = some .kill ∧
      (s true (some .kill) .stop).stopReq = some .kill ∧
      (s true (some .kill) .stop).hostEvents = [.stop]) ∧
    ((s true none .kill).status = .running ∧ (s true none .kill).hostEvents = [.kill]) ∧
    ({ s true none .stop with status := .halted }.status = .halted ∧
      { s true none .stop with status := .halted }.hostEvents = .stop :: []) ∧
    ({ s true none .kill with status := .halted }.hostEvents = .kill :: []) := by decide
/-- B10: Z while a stop is pending. -/
theorem witness_HaltingOrderDiscardsRequest :
    let s : State := { base with stopReq := some .stop }
    s.status = .running ∧ (∃ t : State, exec (.halt 0 false) s = .next t ∧ t.status = .halted) ∧
      (∃ t : State, exec (.invalid 0 0 false) s = .next t ∧ t.status = .halted) ∧
      ∃ t : State, exec (.read 5 true) s = .next t ∧ t.status = .halted :=
  ⟨rfl, ⟨_, rfl, rfl⟩, ⟨_, rfl, rfl⟩, _, rfl, rfl⟩
/-- A halted state whose host acts. -/
def haltedWith (ra : Bool) (e : HostEvent) : State :=
  { base with status := .halted, ra := ra, cause := .haltOrder, hostEvents := [e] }

/-- A permitted reset, and one that reset not allowed turns away. -/
theorem witness_ResetResumes :
    (haltedWith true .reset).hostEvents = .reset :: [] ∧ (haltedWith true .reset).mayResume = true ∧
      (haltedWith false .reset).hostEvents = .reset :: [] ∧
      (haltedWith false .reset).mayResume = false := by decide
/-- A permitted single step of an order that raises a halt (a zero word) and of one that raises none, and
one that reset not allowed turns away. -/
theorem witness_SingleStepRunsOneOrder :
    (let s := haltedWith true .step
     s.hostEvents = .step :: [] ∧ (s.status = .halted ∧ s.ra = true ∧ s.wait = false) ∧
      s.fnCode.wf = true ∧ raisedCause (.invalid 0 0 false) s.tape = some .invalidOrder ∧
      raisedCause (.noop 0 false) s.tape = none) ∧
      (haltedWith false .step).hostEvents = .step :: [] ∧ (haltedWith false .step).ra ≠ true := by
  decide
/-- A permitted start, whatever the mark, and one turned away while running. -/
theorem witness_StartBeginsLoading :
    ((haltedWith false .start).hostEvents = .start :: [] ∧ (haltedWith false .start).status = .halted ∧
      (haltedWith false .start).wait = false) ∧
    (let s : State := { base with hostEvents := [.start] }
     s.hostEvents = .start :: [] ∧ s.status ≠ .idle ∧ s.status ≠ .halted) := by decide
theorem witness_LoaderLoadsTheInitialOrders :
    let s : State := { State.reset with status := .loading }
    s.store.wf = true ∧ s.status = .loading ∧ s.wait = false ∧ s.hostEvents = [] ∧ s.bootNext = 0 := by
  decide
/-- A request pending at the first word and at the end of the list, and each request made in
`loading`. -/
theorem witness_RequestDuringLoadingIsKept :
    let s (r : Option StopKind) (es : List HostEvent) : State :=
      { loadingState with stopReq := r, hostEvents := es }
    ((s (some .stop) []).status = .loading ∧ (s (some .stop) []).wait = false ∧
      (s (some .stop) []).stopReq = some .stop ∧
      (s (some .stop) []).bootNext ≤ (s (some .stop) []).ordersLength) ∧
      ({ s (some .kill) [] with bootNext := loadingState.ordersLength }.bootNext ≤
        loadingState.ordersLength) ∧
      ((s none [.stop]).hostEvents = [.stop] ∧ (s none [.stop]).stopReq ≠ some .kill) ∧
      (s (some .kill) [.stop]).stopReq = some .kill ∧ (s none [.kill]).hostEvents = [.kill] :=
  ⟨⟨rfl, rfl, rfl, Nat.zero_le _⟩, Nat.le_refl _, ⟨rfl, by decide⟩, rfl, rfl⟩
theorem witness_StartFromPowerOn : defaultFnCode.wf = true ∧ zeroLeft.wf = false := by decide
/-- Each operation at rest and while running; a tape extended with and without an end item. -/
theorem witness_TapeAndConfigurationChanges :
    let c : HostConfig := ⟨.two, true, true, false⟩
    ((haltedWith true (.replaceTape [.code 9])).hostEvents = .replaceTape [.code 9] :: [] ∧
      (haltedWith true (.configure c)).hostEvents = .configure c :: [] ∧
      (haltedWith true (.extendTape [.code 9])).hostEvents = .extendTape [.code 9] :: [] ∧
      (haltedWith true .quiet).status = .halted) ∧
    (base.status ≠ .idle ∧ base.status ≠ .halted) ∧
    TapeItem.endOfTape ∉ [TapeItem.code 1] ∧
    (haltedWith true .quiet).tape = [] ∧
    { haltedWith true .quiet with tape := [.code 1, .endOfTape] }.tape =
      [.code 1] ++ .endOfTape :: [] := by decide

end Sys2Proof.Tests
end

/-! The orders and the state they write: the columns of `10_state.md` rule R29 and `20_memory.md` rule
R59, as a relation between the state before and after that is closed under composition. An order is a
chain of state operations, so each row of the table is a chain of the lemmas below. -/

namespace Sys2Proof.Machine

/-- The orders whose row of rule R29 writes `ACC`. -/
def accWriters : List (Option Operation) :=
  [some .add, some .subtract, some .collate, some .roundOff, some .multiplyAdd,
   some .multiplySubtract, some .transfer, some .rightShift, some .leftShift]

/-- The orders whose row writes `MC`. -/
def mcWriters : List (Option Operation) :=
  [some .add, some .subtract, some .multiplyAdd, some .multiplySubtract]

/-- The orders whose row writes `SCR`, beyond the fetch. -/
def scrWriters : List (Option Operation) := [some .branchNonneg, some .branchNeg, some .read]

/-- The orders whose row of rule R59 writes the store. -/
def storeWriters : List (Option Operation) :=
  [some .transfer, some .untransfer, some .read, some .printCheck]

/-- The orders that can raise a halt: Z, Read and Invalid (`60_exceptions.md` rule R211). -/
def haltRaisers : List (Option Operation) := [some .halt, some .read, none]

/-- From `s` to `t` only state changed that an order with the operation `op` may write, and nothing
that no order writes. -/
structure WritesOnlyOwn (op : Option Operation) (s t : State) : Prop where
  acc : t.acc ≠ s.acc → op ∈ accWriters
  mc : t.mc ≠ s.mc → op ∈ mcWriters
  mr : t.mr ≠ s.mr → op = some .loadMultiplier
  scr : t.scr ≠ s.scr → op ∈ scrWriters
  printed : t.lp ≠ s.lp ∨ t.output ≠ s.output → op = some .print
  tape : t.tape ≠ s.tape → op = some .read
  store : t.store ≠ s.store → op ∈ storeWriters
  control : t.status ≠ s.status ∨ t.cause ≠ s.cause ∨ t.ra ≠ s.ra ∨ t.stopReq ≠ s.stopReq →
    op ∈ haltRaisers
  ord : t.ord = s.ord
  ticks : t.ticks = s.ticks
  wait : t.wait = s.wait
  config : t.config = s.config
  fnCode : t.fnCode = s.fnCode
  tickPeriod : t.tickPeriod = s.tickPeriod
  bootNext : t.bootNext = s.bootNext
  hostEvents : t.hostEvents = s.hostEvents

namespace WritesOnlyOwn

variable {op : Option Operation} {s t u : State}

theorem refl (op : Option Operation) (s : State) : WritesOnlyOwn op s s := by
  constructor <;> simp

theorem trans (h₁ : WritesOnlyOwn op s t) (h₂ : WritesOnlyOwn op t u) : WritesOnlyOwn op s u := by
  cases h₁
  cases h₂
  constructor <;> grind

/-- What an order answers, as soon as it is one next state. -/
theorem of_next (hu : WritesOnlyOwn op s u)
    (h : (Host.Outcome.next u : Host.Outcome State Fault Refusal) = .next t) :
    WritesOnlyOwn op s t := by
  cases h
  exact hu

/-! ### One rule per state operation -/

theorem setNotices (n : Notices) : WritesOnlyOwn op s { s with notices := n } := by
  constructor <;> simp

theorem setAcc (h : op ∈ accWriters) (v : AccWord) : WritesOnlyOwn op s (s.setAcc v) := by
  constructor <;> simp [h]

theorem setProperWords (h : op ∈ accWriters) (lo : SlotWord) (hi : Word) :
    WritesOnlyOwn op s (s.setProperWords lo hi) := by
  constructor <;> simp [h]

theorem addP (h : op ∈ accWriters) (v : LongWord) : WritesOnlyOwn op s (s.addP v) :=
  setProperWords h _ _

theorem subP (h : op ∈ accWriters) (v : LongWord) : WritesOnlyOwn op s (s.subP v) :=
  setProperWords h _ _

theorem setMc (h : op ∈ mcWriters) (v : LongWord) : WritesOnlyOwn op s (s.setMc v) := by
  constructor <;> simp [h]

theorem setMr (h : op = some .loadMultiplier) (v : LongWord) :
    WritesOnlyOwn op s (s.setMr v) := by
  constructor <;> simp [h]

theorem multiply (ha : op ∈ accWriters) (hm : op ∈ mcWriters) (sub : Bool) :
    WritesOnlyOwn op s (s.multiply sub) :=
  (setAcc ha _).trans (setMc hm _)

theorem setScr (h : op ∈ scrWriters) (a : Addr) : WritesOnlyOwn op s (s.setScr a) := by
  constructor <;> simp [h]

theorem memWrite (h : op ∈ storeWriters) {w : Nat} (a : Addr) (v : BitVec w) :
    WritesOnlyOwn op s (s.memWrite a v) := by
  constructor <;> simp [h]

theorem storeProper (h : op ∈ storeWriters) (n : Addr) (l : Bool) :
    WritesOnlyOwn op s (s.storeProper n l) := by
  cases l with
  | false => exact memWrite h _ _
  | true => exact (memWrite h _ _).trans (memWrite h _ _)

theorem emit_lp (h : op = some .print) (c : Code) :
    WritesOnlyOwn op s { s.emit c with lp := c } := by
  constructor <;> simp [h]

theorem setTape (h : op = some .read) (tape : List TapeItem) :
    WritesOnlyOwn op s { s with tape := tape } := by
  constructor <;> simp [h]

theorem raiseHalt (h : op ∈ haltRaisers) (c : Cause) : WritesOnlyOwn op s (s.raiseHalt c) := by
  constructor <;> simp [h]

theorem failRead (hs : op ∈ scrWriters) (hh : op ∈ haltRaisers) (c : Cause) :
    WritesOnlyOwn op s (s.failRead c) :=
  (setScr hs _).trans (raiseHalt hh _)

end WritesOnlyOwn

/-! ### The rows of the table -/

theorem execBranchNonneg_writesOnlyOwn {s t : State} {n : Addr}
    (h : execBranchNonneg n s = .next t) : WritesOnlyOwn (some .branchNonneg) s t := by
  refine .of_next ?_ h
  split
  · exact .refl _ _
  · exact .setScr (by decide) _

theorem execBranchNeg_writesOnlyOwn {s t : State} {n : Addr}
    (h : execBranchNeg n s = .next t) : WritesOnlyOwn (some .branchNeg) s t := by
  refine .of_next ?_ h
  split
  · exact .setScr (by decide) _
  · exact .refl _ _

/-- Everything a Read can do: store a code, or fail at the end of the tape or at an invalid
character. -/
theorem execRead_cases {s t : State} {n : Addr} {l : Bool} (h : execRead n l s = .next t) :
    ∃ tape,
      (∃ c : Code, (tapeNext s.tape).1 = .code c ∧
        t = { s with tape := tape }.memWrite (adj n l) c) ∨
      ((tapeNext s.tape).1 = .endOfTape ∧ t = { s with tape := tape }.failRead .tapeEnd) ∨
      (∃ line char notices, (tapeNext s.tape).1 = .invalidCharacter line char ∧
        t = { s with tape := tape, notices := notices }.failRead .tapeError) := by
  refine ⟨(tapeNext s.tape).2, ?_⟩
  unfold execRead at h
  split at h
  case h_1 c hc => exact .inl ⟨c, hc, (Host.Outcome.next.inj h).symm⟩
  case h_2 hc => exact .inr (.inl ⟨hc, (Host.Outcome.next.inj h).symm⟩)
  case h_3 line char hc =>
    exact .inr (.inr ⟨line, char, _, hc, (Host.Outcome.next.inj h).symm⟩)

theorem execRead_writesOnlyOwn {s t : State} {n : Addr} {l : Bool}
    (h : execRead n l s = .next t) : WritesOnlyOwn (some .read) s t := by
  obtain ⟨tape, ⟨c, -, rfl⟩ | ⟨-, rfl⟩ | ⟨line, char, notices, -, rfl⟩⟩ := execRead_cases h
  · exact (WritesOnlyOwn.setTape rfl tape).trans (.memWrite (by decide) _ _)
  · exact (WritesOnlyOwn.setTape rfl tape).trans (.failRead (by decide) (by decide) _)
  · exact ((WritesOnlyOwn.setTape rfl tape).trans (.setNotices notices)).trans
      (.failRead (by decide) (by decide) _)

/-- Every order writes only what its row of the table lists. -/
theorem exec_writesOnlyOwn {i : Instr} {s t : State} (h : exec i s = .next t) :
    WritesOnlyOwn i.operation s t := by
  cases i with dsimp only [Instr.operation]
  | add n l => exact .of_next ((WritesOnlyOwn.setMc (by decide) _).trans (.addP (by decide) _)) h
  | subtract n l => exact .of_next ((WritesOnlyOwn.setMc (by decide) _).trans (.subP (by decide) _)) h
  | loadMultiplier n l => exact .of_next (.setMr rfl _) h
  | multiplyAdd n l =>
    exact .of_next ((WritesOnlyOwn.setMc (by decide) _).trans (.multiply (by decide) (by decide) _)) h
  | multiplySubtract n l =>
    exact .of_next ((WritesOnlyOwn.setMc (by decide) _).trans (.multiply (by decide) (by decide) _)) h
  | transfer n l =>
    exact .of_next ((WritesOnlyOwn.storeProper (by decide) n l).trans (.setAcc (by decide) _)) h
  | untransfer n l => exact .of_next (.storeProper (by decide) n l) h
  | collate n l => exact .of_next (.addP (by decide) _) h
  | rightShift n l => exact .of_next (.setAcc (by decide) _) h
  | leftShift n l => exact .of_next (.setAcc (by decide) _) h
  | branchNonneg n l => exact execBranchNonneg_writesOnlyOwn h
  | branchNeg n l => exact execBranchNeg_writesOnlyOwn h
  | read n l => exact execRead_writesOnlyOwn h
  | print n l => exact .of_next (.emit_lp rfl _) h
  | printCheck n l => exact .of_next (.memWrite (by decide) _ _) h
  | noop n l => exact .of_next (.refl _ _) h
  | roundOff n l => exact .of_next (.setAcc (by decide) _) h
  | halt n l => exact .of_next ((WritesOnlyOwn.setNotices _).trans (.raiseHalt (by decide) _)) h
  | invalid f n l => exact .of_next (.raiseHalt (by decide) _) h

/-- Settles O50: each clause is a column of the table. -/
theorem ordersWriteOnlyTheirOwn : Obligations.OrdersWriteOnlyTheirOwn := by
  intro i s t h
  have own := exec_writesOnlyOwn h
  exact ⟨own.acc, own.mc, own.mr, own.scr, own.printed, own.tape, own.store, own.control, own.ord,
    own.ticks, own.wait, own.config, own.fnCode, own.tickPeriod, own.bootNext, own.hostEvents⟩

end Sys2Proof.Machine

/-! The invariant: what each state operation, each order, the cycle, the loader and the host do to a
consistent state (`Consistent`). -/

namespace Sys2Proof.Machine

/-! ### What an order does to the store's form and to the control state -/

theorem WritesOnlyOwn.store_eq {op : Option Operation} {s t : State} (own : WritesOnlyOwn op s t)
    (h : op ∉ storeWriters) : t.store = s.store :=
  Decidable.byContradiction fun hne => h (own.store hne)

/-- Every order keeps the store canonical. -/
theorem exec_store_wf {i : Instr} {s t : State} (h : exec i s = .next t)
    (hwf : s.store.wf = true) : t.store.wf = true := by
  cases i with
  | transfer n l =>
    obtain rfl := Host.Outcome.next.inj h
    exact State.storeProper_wf n l hwf
  | untransfer n l =>
    obtain rfl := Host.Outcome.next.inj h
    exact State.storeProper_wf n l hwf
  | printCheck n l =>
    obtain rfl := Host.Outcome.next.inj h
    exact State.memWrite_wf _ _ hwf
  | read n l =>
    obtain ⟨tape, ⟨c, -, rfl⟩ | ⟨-, rfl⟩ | ⟨line, char, notices, -, rfl⟩⟩ := execRead_cases h
    · exact State.memWrite_wf _ _ hwf
    · exact hwf
    · exact hwf
  | _ =>
    rw [(exec_writesOnlyOwn h).store_eq (by simp [Instr.operation, storeWriters])]
    exact hwf

/-- The control state of rules R31 to R35 is the same in `t` as in `s`. -/
structure SameControl (s t : State) : Prop where
  status : t.status = s.status
  cause : t.cause = s.cause
  ra : t.ra = s.ra
  stopReq : t.stopReq = s.stopReq

/-- The control state that `raise Halt(c)` leaves (`60_exceptions.md` rule R213). -/
structure HaltedWith (c : Cause) (t : State) : Prop where
  status : t.status = .halted
  cause : t.cause = c
  ra : t.ra = resetAllowed c
  stopReq : t.stopReq = none

theorem State.raiseHalt_haltedWith (s : State) (c : Cause) : HaltedWith c (s.raiseHalt c) :=
  ⟨rfl, rfl, rfl, rfl⟩

theorem WritesOnlyOwn.sameControl {op : Option Operation} {s t : State}
    (own : WritesOnlyOwn op s t) (h : op ∉ haltRaisers) : SameControl s t := by
  have hsame := mt own.control h
  simp only [not_or, ne_eq, not_not] at hsame
  obtain ⟨hstatus, hcause, hra, hstopReq⟩ := hsame
  exact ⟨hstatus, hcause, hra, hstopReq⟩

theorem execRead_control {s t : State} {n : Addr} {l : Bool} (h : execRead n l s = .next t) :
    SameControl s t ∨ ∃ c, c ≠ .none ∧ HaltedWith c t := by
  obtain ⟨tape, ⟨c, -, rfl⟩ | ⟨-, rfl⟩ | ⟨line, char, notices, -, rfl⟩⟩ := execRead_cases h
  · exact .inl ⟨rfl, rfl, rfl, rfl⟩
  · exact .inr ⟨.tapeEnd, by decide, State.raiseHalt_haltedWith _ _⟩
  · exact .inr ⟨.tapeError, by decide, State.raiseHalt_haltedWith _ _⟩

/-- An order leaves the control state alone, or raises a halt. -/
theorem exec_control {i : Instr} {s t : State} (h : exec i s = .next t) :
    SameControl s t ∨ ∃ c, c ≠ .none ∧ HaltedWith c t := by
  cases i with
  | halt n l =>
    obtain rfl := Host.Outcome.next.inj h
    exact .inr ⟨.haltOrder, by decide, State.raiseHalt_haltedWith _ _⟩
  | invalid f n l =>
    obtain rfl := Host.Outcome.next.inj h
    exact .inr ⟨.invalidOrder, by decide, State.raiseHalt_haltedWith _ _⟩
  | read n l => exact execRead_control h
  | _ => exact .inl ((exec_writesOnlyOwn h).sameControl (by simp [Instr.operation, haltRaisers]))

theorem HaltedWith.consistent {c : Cause} {t : State} (h : HaltedWith c t) (hc : c ≠ .none)
    (htable : t.fnCode.wf = true) (hstore : t.store.wf = true) : Consistent t where
  tableAdmitted := htable
  storeCanonical := hstore
  waitAfterOrder _ := .inr h.status
  requestUnderWay hreq := absurd h.stopReq hreq
  causeIffHalted := iff_of_true (h.cause ▸ hc) h.status
  markOfCause _ := h.cause ▸ h.ra
  idleNotAllowed hidle := absurd (h.status.symm.trans hidle) nofun
  loaderInRange hload := absurd (h.status.symm.trans hload) nofun

/-! ### When the host's `start` and single step are permitted -/

theorem State.hostStart_permitted {s : State} (h : (s.atRest && !s.wait) = true) :
    s.hostStart = s.beginLoading := if_pos h

theorem State.hostStart_refused {s : State} (h : ¬ (s.atRest && !s.wait) = true) :
    s.hostStart = s := if_neg h

theorem hostAct_step_permitted {s : State} (h : s.mayResume = true) :
    hostAct .step s = cycle s := if_pos h

theorem hostAct_step_refused {s : State} (h : ¬ s.mayResume = true) :
    hostAct .step s = .next s := if_neg h

/-! ### The state operations keep the machine consistent -/

namespace Consistent

variable {s t : State}

/-- The clauses about the control state hold of every state with the same one. -/
theorem of_sameControl (hs : Consistent s) (same : SameControl s t) (htable : t.fnCode = s.fnCode)
    (hstore : t.store.wf = true) (hwait : t.wait = true → s.status = .running ∨ s.status = .halted)
    (hload : s.status = .loading → t.bootNext ≤ t.ordersLength) : Consistent t where
  tableAdmitted := htable ▸ hs.tableAdmitted
  storeCanonical := hstore
  waitAfterOrder := same.status ▸ hwait
  requestUnderWay := by simpa [same.stopReq, same.status] using hs.requestUnderWay
  causeIffHalted := by simpa [same.cause, same.status] using hs.causeIffHalted
  markOfCause := by simpa [same.cause, same.status, same.ra] using hs.markOfCause
  idleNotAllowed := by simpa [same.status, same.ra] using hs.idleNotAllowed
  loaderInRange := same.status ▸ hload

/-- The notices and the host's events are in no clause. -/
theorem setHost (hs : Consistent s) (n : Notices) (es : List HostEvent) :
    Consistent { s with notices := n, hostEvents := es } :=
  hs.of_sameControl ⟨rfl, rfl, rfl, rfl⟩ rfl hs.storeCanonical hs.waitAfterOrder hs.loaderInRange

theorem setTape (hs : Consistent s) (tape : List TapeItem) : Consistent { s with tape := tape } :=
  hs.of_sameControl ⟨rfl, rfl, rfl, rfl⟩ rfl hs.storeCanonical hs.waitAfterOrder hs.loaderInRange

/-- A new configuration may change the length of the initial orders, but not while they load. -/
theorem setConfig (hs : Consistent s) (hload : s.status ≠ .loading) (c : HostConfig) :
    Consistent { s with config := c } :=
  hs.of_sameControl ⟨rfl, rfl, rfl, rfl⟩ rfl hs.storeCanonical hs.waitAfterOrder
    fun h => absurd h hload

theorem endWait (hs : Consistent s) : Consistent { s with wait := false } :=
  hs.of_sameControl ⟨rfl, rfl, rfl, rfl⟩ rfl hs.storeCanonical nofun hs.loaderInRange

theorem clearTanks (hs : Consistent s) : Consistent s.clearTanks :=
  hs.of_sameControl ⟨rfl, rfl, rfl, rfl⟩ rfl rfl hs.waitAfterOrder hs.loaderInRange

theorem fetch (hs : Consistent s) : Consistent s.fetch :=
  hs.of_sameControl ⟨rfl, rfl, rfl, rfl⟩ rfl hs.storeCanonical hs.waitAfterOrder hs.loaderInRange

/-- A pacing wait may open where an order has just run. -/
theorem charge (hs : Consistent s) (hstatus : s.status = .running ∨ s.status = .halted) (k : Nat) :
    Consistent (s.charge k) :=
  hs.of_sameControl ⟨rfl, rfl, rfl, rfl⟩ rfl hs.storeCanonical (fun _ => hstatus) hs.loaderInRange

theorem request (hs : Consistent s) (h : s.status = .running ∨ s.status = .loading)
    (k : StopKind) : Consistent { s with stopReq := some k } :=
  ⟨hs.tableAdmitted, hs.storeCanonical, hs.waitAfterOrder, fun _ => h, hs.causeIffHalted,
    hs.markOfCause, hs.idleNotAllowed, hs.loaderInRange⟩

theorem raiseHalt (hs : Consistent s) {c : Cause} (hc : c ≠ .none) : Consistent (s.raiseHalt c) :=
  (s.raiseHalt_haltedWith c).consistent hc hs.tableAdmitted hs.storeCanonical

/-- A halt discarded the pending request, so none waits for the resumed run. -/
theorem resume (hs : Consistent s) : Consistent s.resume :=
  ⟨hs.tableAdmitted, hs.storeCanonical, fun _ => .inl rfl, fun _ => .inl rfl,
    iff_of_false (fun h => h rfl) nofun, nofun, nofun, nofun⟩

theorem beginLoading (hs : Consistent s) (hwait : s.wait = false) : Consistent s.beginLoading := by
  have hstart : Consistent
      { s with cause := .none, stopReq := .none, status := .loading, bootNext := 0 } :=
    ⟨hs.tableAdmitted, hs.storeCanonical, fun h => absurd (hwait.symm.trans h) nofun,
      fun _ => .inr rfl, iff_of_false (fun h => h rfl) nofun, nofun, nofun, fun _ => Nat.zero_le _⟩
  unfold State.beginLoading
  split
  · exact hstart.clearTanks
  · exact hstart

theorem cause_eq_none (hs : Consistent s) (h : s.status ≠ .halted) : s.cause = .none :=
  Decidable.byContradiction fun hne => h (hs.causeIffHalted.mp hne)

theorem loadStep (hs : Consistent s) (hstatus : s.status = .loading) : Consistent s.loadStep := by
  have hcause := hs.cause_eq_none (by simp [hstatus])
  rcases loadStep_cases s with ⟨hlt, heq⟩ | ⟨-, heq⟩
  · rw [heq]
    exact ⟨hs.tableAdmitted, Store.write_wf _ hs.storeCanonical (storeIndex_lt _),
      hs.waitAfterOrder, hs.requestUnderWay, hs.causeIffHalted, hs.markOfCause,
      hs.idleNotAllowed, fun _ => hlt⟩
  · rw [heq]
    exact ⟨hs.tableAdmitted, hs.storeCanonical, fun _ => .inl rfl, fun _ => .inl rfl,
      iff_of_false (fun h => h hcause) nofun, nofun, nofun, nofun⟩

/-! ### The cycle, the engine and the host -/

/-- An order leaves the control state or raises a halt. -/
theorem exec {i : Instr} (hs : Consistent s) (h : exec i s = .next t) : Consistent t := by
  have own := exec_writesOnlyOwn h
  have hstore : t.store.wf = true := exec_store_wf h hs.storeCanonical
  rcases exec_control h with same | ⟨c, hc, halted⟩
  · exact hs.of_sameControl same own.fnCode hstore (fun hw => hs.waitAfterOrder (own.wait ▸ hw))
      fun hl => by simpa [State.ordersLength, own.bootNext, own.config] using hs.loaderInRange hl
  · exact halted.consistent hc (own.fnCode ▸ hs.tableAdmitted) hstore

/-- The cycle runs while running or, by a single step, while halted; its order leaves the engine in one
of the two. -/
theorem cycle (hs : Consistent s) (hstatus : s.status = .running ∨ s.status = .halted)
    (h : cycle s = .next t) : Consistent t := by
  obtain ⟨-, i, u, -, hexec, rfl⟩ := cycle_next h
  have hu : u.status = .running ∨ u.status = .halted := by
    rcases exec_control hexec with same | ⟨c, -, halted⟩
    · exact same.status ▸ hstatus
    · exact .inr halted.status
  exact (hs.fetch.exec hexec).charge hu _

theorem engineStep (hs : Consistent s) (h : engineStep s = .next t) : Consistent t := by
  rcases engineStep_next h with
    ⟨-, rfl⟩ | ⟨-, -, rfl⟩ | ⟨-, hload, rfl⟩ | ⟨-, hrun, ⟨k, -, rfl⟩ | ⟨-, hcycle⟩⟩
  · exact hs.endWait
  · exact hs
  · exact hs.loadStep hload
  · exact hs.raiseHalt (by cases k <;> decide)
  · exact hs.cycle (.inl hrun) hcycle

theorem hostStart (hs : Consistent s) : Consistent s.hostStart := by
  by_cases h : (s.atRest && !s.wait) = true
  · rw [State.hostStart_permitted h]
    exact hs.beginLoading (by simp_all)
  · rw [State.hostStart_refused h]
    exact hs

theorem hostStop (hs : Consistent s) : Consistent s.hostStop := by
  unfold State.hostStop
  split
  case isTrue h => exact hs.request (by simpa [State.underWay] using h) _
  case isFalse => exact hs

theorem hostKill (hs : Consistent s) : Consistent s.hostKill := by
  unfold State.hostKill
  split
  case isTrue h => exact (hs.request (by simpa [State.underWay] using h) .kill).endWait
  case isFalse => exact hs.endWait

theorem hostReset (hs : Consistent s) : Consistent s.hostReset := by
  unfold State.hostReset
  split
  · exact hs.resume
  · exact hs

theorem of_next (hs : Consistent s)
    (h : (Host.Outcome.next s : Host.Outcome State Fault Refusal) = .next t) : Consistent t := by
  cases h
  exact hs

theorem hostStep (hs : Consistent s) (h : Machine.hostAct .step s = .next t) : Consistent t := by
  by_cases hmay : s.mayResume = true
  · have hhalted : s.status = .halted := by simp_all [State.mayResume]
    exact hs.cycle (.inr hhalted) (hostAct_step_permitted hmay ▸ h)
  · exact hs.of_next (hostAct_step_refused hmay ▸ h)

/-- An operation that is permitted only at rest. -/
theorem whenAtRest {u : State} (hs : Consistent s) (hu : s.status ≠ .loading → Consistent u) :
    Consistent (if s.atRest then u else s) := by
  split
  case isTrue h => exact hu fun hload => by simp [State.atRest, hload] at h
  case isFalse => exact hs

theorem hostAct {e : HostEvent} (hs : Consistent s) (h : hostAct e s = .next t) :
    Consistent t := by
  cases e with
  | quiet => exact hs.engineStep h
  | start => exact hs.hostStart.of_next h
  | stop => exact hs.hostStop.of_next h
  | reset => exact hs.hostReset.of_next h
  | step => exact hs.hostStep h
  | kill => exact hs.hostKill.of_next h
  | replaceTape items => exact (hs.whenAtRest fun _ => hs.setTape _).of_next h
  | extendTape items => exact (hs.whenAtRest fun _ => hs.setTape _).of_next h
  | configure c => exact (hs.whenAtRest fun hload => hs.setConfig hload c).of_next h

end Consistent

/-- Settles O41: the step is the engine's own or one of the host's operations, and each keeps the
machine consistent. -/
theorem stepKeepsConsistent : Obligations.StepKeepsConsistent := by
  intro s t hs h
  rcases step_cases s with ⟨-, heq⟩ | ⟨e, rest, -, heq⟩
  · exact (hs.setHost {} s.hostEvents).engineStep (heq ▸ h)
  · exact (hs.setHost {} rest).hostAct (heq ▸ h)

/-! ### Power-on -/

/-- Settles O42: every clause but the table's is about the fixed fields of the power-on state. -/
theorem powerOnIsConsistent : Obligations.PowerOnIsConsistent := fun _ _ _ hfc =>
  ⟨hfc, rfl, nofun, fun h => absurd rfl h, iff_of_false (fun h => h rfl) nofun, nofun,
    fun _ => rfl, nofun⟩

theorem Accumulator.value_zero : (Accumulator.mk 0#18 0#18 0#18 0#17).value = 0#71 := by decide

theorem LongRegister.value_zero : (LongRegister.mk 0#18 0#17).value = 0#35 := by decide

/-- Settles O43: zero words compose to zero; an unlisted word reads 0, and the power-on store lists
none. -/
theorem powerOnTanksAreZero : Obligations.PowerOnTanksAreZero := fun _ _ _ =>
  ⟨Accumulator.value_zero, LongRegister.value_zero, LongRegister.value_zero, rfl, rfl,
    fun k _ => Store.read_nil k⟩

theorem step_powerOn (fc : FnCode) (period : Nat) (lp : Code) :
    step (State.powerOn fc period lp) = .next (State.powerOn fc period lp) := rfl

theorem runSteps_powerOn (fc : FnCode) (period : Nat) (lp : Code) (k : Nat) :
    runSteps k (State.powerOn fc period lp) = .next (State.powerOn fc period lp) := by
  induction k with
  | zero => rfl
  | succ k ih => rw [runSteps_succ k (step_powerOn fc period lp), ih]

/-- Settles O44, by induction on the number of steps: the idle engine's step is no change. -/
theorem powerOnWaitsForStart : Obligations.PowerOnWaitsForStart := fun fc period lp k =>
  ⟨rfl, rfl, rfl, rfl, rfl, rfl, rfl, runSteps_powerOn fc period lp k⟩

end Sys2Proof.Machine

/-! The registers' composed values (`10_state.md` rules R23 to R26), and that no step reads `MC`
(rules R29 and R40). -/

namespace Sys2Proof.Machine

/-! ### Composed values as numbers, and their signs -/

theorem LongRegister.value_toNat (r : LongRegister) :
    r.value.toNat = r.lo.toNat + 2 ^ 18 * r.hi.toNat := by
  rw [LongRegister.value, composeLong_toNat]
  omega

theorem Accumulator.value_toNat (a : Accumulator) :
    a.value.toNat =
      a.w0.toNat + 2 ^ 18 * a.w1.toNat + 2 ^ 36 * a.w2.toNat + 2 ^ 54 * a.w3.toNat := by
  simp only [Accumulator.value, BitVec.toNat_append]
  rw [← Nat.shiftLeft_add_eq_or_of_lt a.w0.isLt, ← Nat.shiftLeft_add_eq_or_of_lt a.w1.isLt,
    ← Nat.shiftLeft_add_eq_or_of_lt a.w2.isLt]
  simp only [Nat.shiftLeft_eq]
  omega

theorem Accumulator.proper_toNat (a : Accumulator) :
    a.proper.toNat = a.value.toNat / 2 ^ 36 := by
  have h0 := a.w0.isLt
  have h1 := a.w1.isLt
  rw [Accumulator.proper, composeLong_toNat, Accumulator.value_toNat]
  omega

theorem Accumulator.ofValue_value (a : Accumulator) : Accumulator.ofValue a.value = a := by
  have h0 := a.w0.isLt
  have h1 := a.w1.isLt
  have h2 := a.w2.isLt
  have h3 := a.w3.isLt
  rcases a with ⟨w0, w1, w2, w3⟩
  simp only [Accumulator.ofValue, Accumulator.mk.injEq]
  refine ⟨?_, ?_, ?_, ?_⟩ <;>
    (apply BitVec.eq_of_toNat_eq
     simp only [BitVec.extractLsb'_toNat, Nat.shiftRight_eq_div_pow, Accumulator.value_toNat]
     omega)

theorem Accumulator.value_ofValue (v : AccWord) : (Accumulator.ofValue v).value = v := by
  apply BitVec.eq_of_toNat_eq
  have hv := v.isLt
  simp only [Accumulator.value_toNat, Accumulator.ofValue, BitVec.extractLsb'_toNat,
    Nat.shiftRight_eq_div_pow]
  omega

/-- The top bit of a high word, as the sign of what is composed under it. -/
theorem append_neg_iff {w : Nat} (hi : Word) (lo : BitVec w) :
    hi.getLsbD 16 = true ↔ (hi ++ lo).toInt < 0 := by
  have hmsb : (hi ++ lo).msb = hi.getLsbD 16 := by
    rw [BitVec.msb_append, if_neg (by decide), BitVec.msb_eq_getLsbD_last]
  rw [← hmsb, BitVec.msb_eq_toInt, decide_eq_true_eq]

theorem composeLong_neg_iff (lo : SlotWord) (hi : Word) :
    hi.getLsbD 16 = true ↔ (composeLong lo hi).toInt < 0 :=
  append_neg_iff hi lo

theorem Accumulator.value_neg_iff (a : Accumulator) :
    a.w3.getLsbD 16 = true ↔ a.value.toInt < 0 := by
  have hassoc : a.value = a.w3 ++ (a.w2 ++ (a.w1 ++ a.w0)) := by
    rw [Accumulator.value, BitVec.append_assoc, BitVec.append_assoc]
    rfl
  rw [hassoc]
  exact append_neg_iff a.w3 (a.w2 ++ (a.w1 ++ a.w0))

/-- Settles O8: each register's value as a number, its sign bit, and both inverses. -/
theorem registerComposition : Obligations.RegisterComposition :=
  ⟨fun a => ⟨a.value_toNat, a.proper_toNat, a.value_neg_iff, composeLong_neg_iff _ _,
      a.ofValue_value⟩,
    Accumulator.value_ofValue,
    fun r => ⟨r.value_toNat, composeLong_neg_iff _ _, r.ofValue_value⟩,
    LongRegister.value_ofValue,
    fun _ v c r => ⟨Accumulator.value_ofValue v, LongRegister.value_ofValue c,
      LongRegister.value_ofValue r⟩⟩

/-! ### No step reads the Multiplicand -/

/-- `s` with another Multiplicand. -/
def State.withMc (s : State) (m : LongRegister) : State := { s with mc := m }

/-- What `f` answers does not depend on `MC`, but for `MC` itself: an answer `t` for `s` is also the
answer for `s` with any other Multiplicand, with some Multiplicand in it. -/
def IgnoresMc (f : State → Host.Outcome State Fault Refusal) : Prop :=
  ∀ (s t : State) (m : LongRegister), f s = .next t →
    ∃ m' : LongRegister, f (s.withMc m) = .next (t.withMc m')

/-- The answers `u'` and `u` of two runs that differ in `MC` only. -/
theorem next_withMc {u u' t : State} {m' : LongRegister}
    (h : (Host.Outcome.next u : Host.Outcome State Fault Refusal) = .next t)
    (hu : u' = u.withMc m') :
    ∃ m' : LongRegister,
      (Host.Outcome.next u' : Host.Outcome State Fault Refusal) = .next (t.withMc m') := by
  cases h
  exact ⟨m', congrArg _ hu⟩

/-- A choice by a condition that does not read `MC`. -/
theorem ite_withMc {c : Prop} [Decidable c] {s s' t t' : State} {m : LongRegister}
    (hs : s' = s.withMc m) (ht : t' = t.withMc m) :
    (if c then s' else t') = (if c then s else t).withMc m := by
  rw [hs, ht, apply_ite (State.withMc · m)]

/-! #### Orders and the cycle -/

theorem storeProper_withMc (s : State) (m : LongRegister) (n : Addr) (l : Bool) :
    (s.withMc m).storeProper n l = (s.storeProper n l).withMc m := by
  cases l <;> rfl

theorem execRead_ignoresMc (n : Addr) (l : Bool) : IgnoresMc (execRead n l) := by
  intro s t m h
  unfold execRead at h ⊢
  cases hitem : (tapeNext s.tape).1 <;> simp only [State.withMc, hitem] at h ⊢
  case code c => exact next_withMc (m' := m) h rfl
  case endOfTape => exact next_withMc (m' := m) h rfl
  case invalidCharacter line char => exact next_withMc (m' := m) h rfl

/-- Every order keeps `MC`, or overwrites it before it uses it. -/
theorem exec_ignoresMc (i : Instr) : IgnoresMc (exec i) := by
  intro s t m h
  cases i with
  | add n l => exact next_withMc (m' := .ofValue (operand s n l)) h rfl
  | subtract n l => exact next_withMc (m' := .ofValue (operand s n l)) h rfl
  | loadMultiplier n l => exact next_withMc (m' := m) h rfl
  | multiplyAdd n l => exact next_withMc (m' := .ofValue 0#35) h rfl
  | multiplySubtract n l => exact next_withMc (m' := .ofValue 0#35) h rfl
  | transfer n l =>
    exact next_withMc (m' := m) h (congrArg (State.setAcc · 0#71) (storeProper_withMc s m n l))
  | untransfer n l => exact next_withMc h (storeProper_withMc s m n l)
  | collate n l => exact next_withMc (m' := m) h rfl
  | rightShift n l => exact next_withMc (m' := m) h rfl
  | leftShift n l => exact next_withMc (m' := m) h rfl
  | branchNonneg n l => exact next_withMc (m' := m) h (ite_withMc rfl rfl)
  | branchNeg n l => exact next_withMc (m' := m) h (ite_withMc rfl rfl)
  | read n l => exact execRead_ignoresMc n l s t m h
  | print n l => exact next_withMc (m' := m) h rfl
  | printCheck n l => exact next_withMc (m' := m) h rfl
  | noop n l => exact next_withMc (m' := m) h rfl
  | roundOff n l => exact next_withMc (m' := m) h rfl
  | halt n l => exact next_withMc (m' := m) h rfl
  | invalid f n l => exact next_withMc (m' := m) h rfl

theorem cycle_ignoresMc : IgnoresMc cycle := by
  intro s t m h
  obtain ⟨-, i, u, horder, hexec, rfl⟩ := cycle_next h
  obtain ⟨m', hm'⟩ := exec_ignoresMc i s.fetch u m hexec
  exact ⟨m', cycle_of_exec (s := s.withMc m) horder hm'⟩

/-! #### The engine and the host -/

theorem loadStep_withMc (s : State) (m : LongRegister) :
    (s.withMc m).loadStep = s.loadStep.withMc m := ite_withMc rfl rfl

theorem engineStep_ignoresMc : IgnoresMc engineStep := by
  intro s t m h
  rcases engineStep_next h with
    ⟨hwait, rfl⟩ | ⟨hwait, hrest, rfl⟩ | ⟨hwait, hload, rfl⟩ |
      ⟨hwait, hrun, ⟨k, hreq, rfl⟩ | ⟨hreq, hcycle⟩⟩
  · exact ⟨m, by simp [engineStep, State.withMc, hwait]⟩
  · exact ⟨m, by rcases hrest with hs | hs <;> simp [engineStep, State.withMc, hwait, hs]⟩
  · exact ⟨m, by rw [← loadStep_withMc]; simp [engineStep, State.withMc, hwait, hload]⟩
  · exact ⟨m, by simp [engineStep, State.withMc, hwait, hrun, hreq, State.raiseHalt]⟩
  · obtain ⟨m', hm'⟩ := cycle_ignoresMc s t m hcycle
    refine ⟨m', ?_⟩
    rw [← hm']
    simp [engineStep, State.withMc, hwait, hrun, hreq]

/-- `start` keeps `MC`, or clears it with the other tanks. -/
theorem beginLoading_withMc (s : State) (m : LongRegister) :
    ∃ m' : LongRegister, (s.withMc m).beginLoading = s.beginLoading.withMc m' := by
  unfold State.beginLoading
  split
  · exact ⟨.ofValue 0#35, rfl⟩
  · exact ⟨m, rfl⟩

theorem hostStart_withMc (s : State) (m : LongRegister) :
    ∃ m' : LongRegister, (s.withMc m).hostStart = s.hostStart.withMc m' := by
  by_cases h : (s.atRest && !s.wait) = true
  · rw [State.hostStart_permitted h, State.hostStart_permitted (s := s.withMc m) h]
    exact beginLoading_withMc s m
  · rw [State.hostStart_refused h, State.hostStart_refused (s := s.withMc m) h]
    exact ⟨m, rfl⟩

theorem hostAct_ignoresMc (e : HostEvent) : IgnoresMc (hostAct e) := by
  intro s t m h
  cases e with
  | quiet => exact engineStep_ignoresMc s t m h
  | start =>
    obtain ⟨m', hm'⟩ := hostStart_withMc s m
    exact next_withMc h hm'
  | stop => exact next_withMc (m' := m) h (ite_withMc rfl rfl)
  | reset => exact next_withMc (m' := m) h (ite_withMc rfl rfl)
  | step =>
    by_cases hmay : s.mayResume = true
    · rw [hostAct_step_permitted hmay] at h
      rw [hostAct_step_permitted (s := s.withMc m) hmay]
      exact cycle_ignoresMc s t m h
    · rw [hostAct_step_refused hmay] at h
      rw [hostAct_step_refused (s := s.withMc m) hmay]
      exact next_withMc h rfl
  | kill => exact next_withMc (m' := m) h (ite_withMc rfl rfl)
  | replaceTape items => exact next_withMc (m' := m) h (ite_withMc rfl rfl)
  | extendTape items => exact next_withMc (m' := m) h (ite_withMc rfl rfl)
  | configure c => exact next_withMc (m' := m) h (ite_withMc rfl rfl)

/-- Settles O49: the step is the engine's own or one of the host's operations, and each ignores
`MC`. -/
theorem multiplicandIsNeverRead : Obligations.MultiplicandIsNeverRead := by
  intro s t m h
  rcases step_cases s with ⟨hnil, heq⟩ | ⟨e, rest, hcons, heq⟩
  · obtain ⟨m', hm'⟩ := engineStep_ignoresMc _ t m (heq ▸ h)
    exact ⟨m', (step_silent (s := s.withMc m) hnil).trans hm'⟩
  · obtain ⟨m', hm'⟩ := hostAct_ignoresMc e _ t m (heq ▸ h)
    exact ⟨m', (step_event (s := s.withMc m) hcons).trans hm'⟩

end Sys2Proof.Machine

/-! The store as the orders see it: the address mapping and read after write (`20_memory.md` rule R52),
and a stored word fetched as the next order (rule R66). -/

namespace Sys2Proof.Machine

/-! ### The address mapping -/

/-- Masking with five ones keeps an address's five low bits. -/
theorem and_mask5_toNat (a : Addr) : (a &&& 31#11).toNat = a.toNat % 32 := by
  rw [BitVec.toNat_and]
  exact Nat.and_two_pow_sub_one_eq_mod a.toNat 5

theorem tankOffset_eq_and (a : Addr) : tankOffset a = (a &&& 31#11).toNat :=
  (and_mask5_toNat a).symm

theorem tankIndex_eq_shift_and (a : Addr) : tankIndex a = (a >>> 5 &&& 31#11).toNat := by
  rw [and_mask5_toNat, BitVec.toNat_ushiftRight, Nat.shiftRight_eq_div_pow]
  rfl

/-- Address bit 10 is ignored by the store. -/
theorem storeIndex_add_1024 (a : Addr) : storeIndex (a + 1024#11) = storeIndex a := by
  rw [storeIndex_eq, storeIndex_eq, BitVec.toNat_add, BitVec.toNat_ofNat]
  omega

/-- `MemRead` after `MemWrite` as numbers: the value is masked to 17 bits. -/
theorem State.memRead_memWrite_toNat {s : State} {k : Nat} (a b : Addr) (v : BitVec k)
    (h : s.store.wf = true) :
    ((s.memWrite a v).memRead b).toNat =
      if b.toNat % 1024 = a.toNat % 1024 then v.toNat % 2 ^ 17 else (s.memRead b).toNat := by
  rw [State.memRead_memWrite a b v h, storeIndex_eq, storeIndex_eq]
  split
  · exact BitVec.toNat_setWidth 17 v
  · rfl

/-- Settles O9: the mapping is reduction modulo 1024, which drops bit 10, and a write is read back at
exactly the addresses of its store index. -/
theorem storeMappingAndAccess : Obligations.StoreMappingAndAccess :=
  ⟨fun a => ⟨tankIndex_eq_shift_and a, tankOffset_eq_and a, rfl, storeIndex_eq a,
      storeIndex_add_1024 a⟩,
    fun _ _ => rfl, fun _ a b _ v h => State.memRead_memWrite_toNat a b v h⟩

/-! ### A stored word is fetched next -/

/-- The step of a machine that is ready to run an order is one instruction cycle. -/
theorem ReadyToCycle.step_eq_cycle {s : State} (h : ReadyToCycle s) :
    step s = cycle { s with notices := {} } := by
  obtain ⟨-, hrunning, hrequest, hwait, hsilent⟩ := h
  rw [step_silent hsilent]
  simp [engineStep, hrunning, hrequest, hwait]

/-- The step of a machine that is ready to run an order is that order on the fetched state, charged. -/
theorem ReadyToCycle.step_of_exec {s u : State} {i : Instr} (h : ReadyToCycle s)
    (hi : s.nextOrder = .ok i) (hu : exec i { s with notices := {} }.fetch = .next u) :
    step s = .next (u.charge s.nextCost) :=
  h.step_eq_cycle.trans (cycle_of_exec (s := { s with notices := {} }) hi hu)

/-- A word stored by a short U at the address in `SCR` is the word at `SCR`. -/
theorem State.fetchWord_storeProper_scr {s : State} (h : s.store.wf = true) :
    (s.storeProper s.scr false).fetchWord = s.acc.w3 := by
  have hread : (s.storeProper s.scr false).memRead s.scr = s.acc.w3 := by
    rw [State.memRead_storeProper s.scr false s.scr h]
    simp [adj]
  exact hread

/-- Settles O23: the fetch leaves `SCR` at the next order's address, where U then stores the high word of
the accumulator; charging the cost changes neither `SCR` nor the store. -/
theorem storedWordIsFetchedNext : Obligations.StoredWordIsFetchedNext := by
  intro s hready hwf horder
  have hstored : ({ s with notices := {} }.fetch.storeProper (s.scr + 1#11) false).fetchWord =
      s.acc.w3 :=
    State.fetchWord_storeProper_scr (s := { s with notices := {} }.fetch) hwf
  exact ⟨_, hready.step_of_exec horder rfl, hstored⟩

end Sys2Proof.Machine

/-! The order format, the function-code table and the decoder (`30_encoding.md` rules R70 to R79):
the fields of a word and the word of its fields, the dispatch table as the inverse of `FN_CODE`, an
order as its operation and its fields, and from these that decoding and encoding are inverse to each
other. -/

namespace Sys2Proof

/-! ### The three fields of a word -/

theorem codeField_toNat (w : Word) : (codeField w).toNat = w.toNat / 2 ^ 12 := by
  have hw := w.isLt
  simp only [codeField, BitVec.extractLsb'_toNat, Nat.shiftRight_eq_div_pow]
  omega

theorem addrField_toNat (w : Word) : (addrField w).toNat = w.toNat / 2 % 2 ^ 11 := by
  simp only [addrField, BitVec.extractLsb'_toNat, Nat.shiftRight_eq_div_pow, pow_one]

theorem longField_toNat (w : Word) : (longField w).toNat = w.toNat % 2 := by
  rw [longField, BitVec.getLsbD, Nat.toNat_testBit, pow_zero, Nat.div_one]

/-- `enc_toNat` with the long flag as a number. -/
theorem enc_toNat_fields (f : Code) (n : Addr) (l : Bool) :
    (enc f n l).toNat = f.toNat * 2 ^ 12 + n.toNat * 2 + l.toNat := by
  rw [enc_toNat]
  cases l <;> rfl

/-- A word is the word of its fields. -/
theorem enc_fields (w : Word) : enc (codeField w) (addrField w) (longField w) = w := by
  apply BitVec.eq_of_toNat_eq
  rw [enc_toNat_fields, codeField_toNat, addrField_toNat, longField_toNat]
  omega

/-- Settles O1: the fields as numbers are the digits of the word, and `enc` puts the digits
together. -/
theorem orderFieldsAndWord : Obligations.OrderFieldsAndWord :=
  ⟨fun w => ⟨longField_toNat w, addrField_toNat w, codeField_toNat w, enc_fields w⟩,
    fun f n l => ⟨enc_toNat_fields f n l, codeField_enc f n l, addrField_enc f n l,
      longField_enc f n l⟩⟩

/-! ### The function-code table and the dispatch table -/

theorem Operation.mem_all (op : Operation) : op ∈ Operation.all := by
  cases op <;> decide

theorem FnCode.distinct_iff (fc : FnCode) : fc.distinct = true ↔ Function.Injective fc.code := by
  have hall : Operation.all.Nodup := by decide
  rw [FnCode.distinct, decide_eq_true_eq, List.nodup_map_iff_inj_on hall]
  exact ⟨fun h a b => h a a.mem_all b b.mem_all, fun h a _ b _ hab => h hab⟩

/-- Rule R76 in the words of the rule. -/
theorem FnCode.wf_iff (fc : FnCode) :
    fc.wf = true ↔ Function.Injective fc.code ∧ fc.rightShift ≠ 0#5 ∧ fc.leftShift ≠ 0#5 := by
  simp only [FnCode.wf, Bool.and_eq_true, bne_iff_ne, FnCode.distinct_iff, and_assoc]

theorem FnCode.code_injective {fc : FnCode} (h : fc.wf = true) : Function.Injective fc.code :=
  (fc.wf_iff.mp h).1

/-- An operation found in the dispatch table has the code it was looked up by. -/
theorem code_of_dispatch {fc : FnCode} {f : Code} {op : Operation} (h : dispatch fc f = some op) :
    fc.code op = f := by
  simpa using List.find?_some h

theorem dispatch_eq_none_iff (fc : FnCode) (f : Code) :
    dispatch fc f = none ↔ ∀ op : Operation, fc.code op ≠ f := by
  simp [dispatch, Operation.mem_all]

/-- A code is Invalid exactly when no operation has it. -/
theorem dispatch_eq_none_iff_not_assigned (fc : FnCode) (f : Code) :
    dispatch fc f = none ↔ fc.assigned f = false := by
  simp [dispatch, FnCode.assigned]

/-- The lookup finds some operation with the code, and with distinct codes there is only one. -/
theorem dispatch_code {fc : FnCode} (h : fc.wf = true) (op : Operation) :
    dispatch fc (fc.code op) = some op := by
  cases hop : dispatch fc (fc.code op) with
  | none => exact absurd rfl ((dispatch_eq_none_iff fc _).mp hop op)
  | some op' => rw [FnCode.code_injective h (code_of_dispatch hop)]

/-! ### An order is its operation and its fields -/

theorem instrOf_operation_fields (fc : FnCode) (i : Instr) :
    instrOf i.operation (orderCode fc i) i.address i.long = i := by
  cases i <;> rfl

theorem operation_instrOf (op : Option Operation) (f : Code) (n : Addr) (l : Bool) :
    (instrOf op f n l).operation = op := by
  rcases op with _ | op
  · rfl
  · cases op <;> rfl

theorem address_instrOf (op : Option Operation) (f : Code) (n : Addr) (l : Bool) :
    (instrOf op f n l).address = n := by
  rcases op with _ | op
  · rfl
  · cases op <;> rfl

theorem long_instrOf (op : Option Operation) (f : Code) (n : Addr) (l : Bool) :
    (instrOf op f n l).long = l := by
  rcases op with _ | op
  · rfl
  · cases op <;> rfl

theorem orderCode_of_operation (fc : FnCode) {i : Instr} {op : Operation}
    (h : i.operation = some op) : orderCode fc i = fc.code op := by
  cases i <;> cases h <;> rfl

/-- Every order of an operation is well-formed; an Invalid order is so when its code is unassigned.
-/
theorem Instr.wf_iff (fc : FnCode) (i : Instr) :
    i.wf fc = true ↔ (i.operation = none → dispatch fc (orderCode fc i) = none) := by
  cases i with
  | invalid f n l => simp [Instr.wf, Instr.operation, orderCode, dispatch_eq_none_iff_not_assigned]
  | _ => exact iff_of_true rfl nofun

/-- The dispatch table at the code of a well-formed order is the order's operation. -/
theorem dispatch_orderCode {fc : FnCode} (h : fc.wf = true) {i : Instr} (hi : i.wf fc = true) :
    dispatch fc (orderCode fc i) = i.operation := by
  cases hop : i.operation with
  | none => exact (Instr.wf_iff fc i).mp hi hop
  | some op => rw [orderCode_of_operation fc hop, dispatch_code h]

/-- The order that the dispatch table gives for a code has that code. -/
theorem orderCode_instrOf_dispatch (fc : FnCode) (f : Code) (n : Addr) (l : Bool) :
    orderCode fc (instrOf (dispatch fc f) f n l) = f := by
  cases hop : dispatch fc f with
  | none => rfl
  | some op =>
    rw [orderCode_of_operation fc (operation_instrOf (some op) f n l), code_of_dispatch hop]

theorem instrOf_dispatch_wf (fc : FnCode) (f : Code) (n : Addr) (l : Bool) :
    (instrOf (dispatch fc f) f n l).wf fc = true := by
  rw [Instr.wf_iff, operation_instrOf, orderCode_instrOf_dispatch]
  exact id

/-! ### Decoding and encoding -/

/-- The dispatch table gives the order's operation back, and `enc` its fields. -/
theorem decodeWith_encodeWith {fc : FnCode} (h : fc.wf = true) {i : Instr} (hi : i.wf fc = true) :
    decodeWith fc (encodeWith fc i) = .ok i := by
  rw [decodeWith_wf h, encodeWith, codeField_enc, addrField_enc, longField_enc,
    dispatch_orderCode h hi, instrOf_operation_fields]

/-- Encoding the order of a word's fields gives the word back. -/
theorem encodeWith_instrOf_fields (fc : FnCode) (w : Word) :
    encodeWith fc (instrOf (dispatch fc (codeField w)) (codeField w) (addrField w) (longField w)) =
      w := by
  rw [encodeWith, orderCode_instrOf_dispatch, address_instrOf, long_instrOf, enc_fields]

/-- Under a well-formed table two well-formed orders have different words. -/
theorem encodeWith_injOn {fc : FnCode} (h : fc.wf = true) {i j : Instr} (hi : i.wf fc = true)
    (hj : j.wf fc = true) (heq : encodeWith fc i = encodeWith fc j) : i = j := by
  have hok : (Except.ok i : Except DecodeError Instr) = .ok j := by
    rw [← decodeWith_encodeWith h hi, heq, decodeWith_encodeWith h hj]
  exact Except.ok.inj hok

/-- Settles O2, by `decodeWith_encodeWith`. -/
theorem decodeOfEncodeIsTheOrder : Obligations.DecodeOfEncodeIsTheOrder :=
  fun _ h _ hi => decodeWith_encodeWith h hi

/-- Settles O3: the order is the one of the word's fields, and no other well-formed order has its
word. -/
theorem everyWordIsOneOrder : Obligations.EveryWordIsOneOrder := by
  intro fc h w
  have hwf := instrOf_dispatch_wf fc (codeField w) (addrField w) (longField w)
  have hword := encodeWith_instrOf_fields fc w
  exact ⟨_, decodeWith_wf h w, hwf, hword, operation_instrOf _ _ _ _,
    fun j hj hjw => encodeWith_injOn h hj hwf (hjw.trans hword.symm)⟩

theorem decodeWith_eq_error_iff (fc : FnCode) (w : Word) :
    decodeWith fc w = .error .illFormedFnCode ↔ fc.wf = false := by
  refine ⟨fun herr => ?_, fun h => decodeWith_illFormed h w⟩
  cases h : fc.wf with
  | false => rfl
  | true => exact absurd ((decodeWith_wf h w).symm.trans herr) nofun

/-- Settles O4: the decoder refuses when the check of the table fails, and the check is rule R76. -/
theorem illFormedTableIsRefused : Obligations.IllFormedTableIsRefused := by
  intro fc w
  rw [decodeWith_eq_error_iff, ← fc.wf_iff, Bool.not_eq_true]

/-- Under the default table a well-formed order decodes from its word. -/
theorem decode_encode {i : Instr} (hi : i.wf defaultFnCode = true) : decode (encode i) = .ok i :=
  decodeWith_encodeWith defaultFnCode_wf hi

/-- Settles O6: each word written out is the word of its order. -/
theorem writtenWordsDecode : Obligations.WrittenWordsDecode :=
  ⟨decode_encode (i := .add 5 false) rfl, decode_encode (i := .transfer 6 true) rfl,
    decode_encode (i := .multiplyAdd 2047 true) rfl, decode_encode (i := .rightShift 6 false) rfl,
    decode_encode (i := .branchNonneg 41 true) rfl, decode_encode (i := .read 101 true) rfl,
    decode_encode (i := .halt 0 false) rfl, decode_encode (i := .invalid 0 0 false) rfl,
    decode_encode (i := .invalid 29 2 true) rfl⟩

end Sys2Proof

/-! The function-code table along a run (`30_encoding.md` rules R73 and R75), and the step as the
decoded order's meaning (rules R80 and R81). -/

namespace Sys2Proof.Machine

/-! ### No step changes the function-code table -/

/-- Whatever `f` answers for `s`, the function-code table is the one of `s`. -/
def KeepsFnCode (f : State → Host.Outcome State Fault Refusal) : Prop :=
  ∀ s t : State, f s = .next t → t.fnCode = s.fnCode

theorem fnCode_of_next {s t u : State}
    (h : (Host.Outcome.next u : Host.Outcome State Fault Refusal) = .next t)
    (hu : u.fnCode = s.fnCode) : t.fnCode = s.fnCode := by
  cases h
  exact hu

theorem fnCode_ite {c : Prop} [Decidable c] {s u : State} (hu : u.fnCode = s.fnCode) :
    (if c then u else s).fnCode = s.fnCode := by
  split
  · exact hu
  · rfl

theorem cycle_keepsFnCode : KeepsFnCode cycle := by
  intro s t h
  obtain ⟨-, i, u, -, hexec, rfl⟩ := cycle_next h
  exact (exec_writesOnlyOwn hexec).fnCode

theorem loadStep_fnCode (s : State) : s.loadStep.fnCode = s.fnCode := by
  rcases loadStep_cases s with ⟨-, heq⟩ | ⟨-, heq⟩ <;> rw [heq]

theorem beginLoading_fnCode (s : State) : s.beginLoading.fnCode = s.fnCode := by
  unfold State.beginLoading
  split <;> rfl

theorem engineStep_keepsFnCode : KeepsFnCode engineStep := by
  intro s t h
  rcases engineStep_next h with
    ⟨-, rfl⟩ | ⟨-, -, rfl⟩ | ⟨-, -, rfl⟩ | ⟨-, -, ⟨k, -, rfl⟩ | ⟨-, hcycle⟩⟩
  · rfl
  · rfl
  · exact loadStep_fnCode s
  · rfl
  · exact cycle_keepsFnCode s t hcycle

theorem hostAct_keepsFnCode (e : HostEvent) : KeepsFnCode (hostAct e) := by
  intro s t h
  cases e with
  | quiet => exact engineStep_keepsFnCode s t h
  | start => exact fnCode_of_next h (fnCode_ite (beginLoading_fnCode s))
  | stop => exact fnCode_of_next h (fnCode_ite rfl)
  | reset => exact fnCode_of_next h (fnCode_ite rfl)
  | step =>
    by_cases hmay : s.mayResume = true
    · exact cycle_keepsFnCode s t (hostAct_step_permitted hmay ▸ h)
    · exact fnCode_of_next (hostAct_step_refused hmay ▸ h) rfl
  | kill => exact fnCode_of_next (s := { s with wait := false }) h (fnCode_ite rfl)
  | replaceTape items => exact fnCode_of_next h (fnCode_ite rfl)
  | extendTape items => exact fnCode_of_next h (fnCode_ite rfl)
  | configure c => exact fnCode_of_next h (fnCode_ite rfl)

theorem step_keepsFnCode : KeepsFnCode step := by
  intro s t h
  rcases step_cases s with ⟨-, heq⟩ | ⟨e, rest, -, heq⟩
  · exact engineStep_keepsFnCode { s with notices := {} } t (heq.symm.trans h)
  · exact hostAct_keepsFnCode e { s with notices := {}, hostEvents := rest } t (heq.symm.trans h)

/-- Settles O5: the dispatch table inverts a well-formed `FN_CODE`; the default's 14 Invalid codes
are read off its 32 entries; and no step changes the table. -/
theorem dispatchTableEntries : Obligations.DispatchTableEntries :=
  ⟨fun fc h => ⟨dispatch_code h, fun f hf => (dispatch_eq_none_iff fc f).mpr hf⟩,
    by decide, step_keepsFnCode⟩

/-! ### The step of a state that runs an order -/

/-- A cycle whose order has no meaning in the model is refused with the order's reason. -/
theorem cycle_of_exec_refused {s : State} {i : Instr} {r : Refusal} (hi : s.nextOrder = .ok i)
    (hr : exec i s.fetch = .refused r) : cycle s = .refused r := by
  unfold cycle
  rw [hi]
  dsimp only
  rw [hr]

/-- The state a step acts on: the notices of the step before are gone, and the host's event is
taken. -/
def State.stepBase (s : State) : State := { s with notices := {}, hostEvents := s.hostEvents.tail }

theorem step_of_hostQuiet {s : State} (h : hostQuiet s = true) :
    step s = engineStep s.stepBase := by
  unfold hostQuiet at h
  split at h
  case h_1 hnil => simp only [step_silent hnil, State.stepBase, hnil, List.tail_nil]
  case h_2 rest hquiet =>
    simp only [step_event hquiet, hostAct, State.stepBase, hquiet, List.tail_cons]
  case h_3 => cases h

theorem step_of_hostAsksStep {s : State} (h : hostAsksStep s = true) :
    step s = hostAct .step s.stepBase := by
  unfold hostAsksStep at h
  split at h
  case h_1 rest hstep => simp only [step_event hstep, State.stepBase, hstep, List.tail_cons]
  case h_2 => cases h

theorem engineStep_eq_cycle {s : State} (hwait : s.wait = false) (hrun : s.status = .running)
    (hreq : s.stopReq = none) : engineStep s = cycle s := by
  simp [engineStep, hwait, hrun, hreq]

/-- In the run loop and as a permitted single step, the step is one instruction cycle. -/
theorem step_of_runsCycle {s : State} (h : runsCycle s = true) : step s = cycle s.stepBase := by
  simp only [runsCycle, Bool.or_eq_true, Bool.and_eq_true, Bool.not_eq_true', beq_iff_eq,
    Option.isNone_iff_eq_none] at h
  obtain ⟨⟨⟨hquiet, hwait⟩, hrun⟩, hreq⟩ | ⟨hasks, hmay⟩ := h
  · rw [step_of_hostQuiet hquiet, engineStep_eq_cycle (s := s.stepBase) hwait hrun hreq]
  · rw [step_of_hostAsksStep hasks, hostAct_step_permitted (s := s.stepBase) hmay]

/-- Settles O39: the step is the cycle of `stepBase`, whose fetched state and cost are the ones of
the statement; the cycle charges a next state and passes on a refusal, and there is no fault. -/
theorem stepRunsTheDecodedOrder : Obligations.StepRunsTheDecodedOrder := by
  intro s i hruns horder fetched
  have hstep : step s = cycle s.stepBase := step_of_runsCycle hruns
  have hnext : s.stepBase.nextOrder = .ok i := horder
  exact ⟨fun t ht => hstep.trans (cycle_of_exec hnext ht),
    nofun,
    fun r hr => hstep.trans (cycle_of_exec_refused hnext hr)⟩

end Sys2Proof.Machine

/-! The adder family (`40_add_subtract.md`): the adjusted address and the operand at it, the
word-level carry and borrow chains as arithmetic modulo `2^35`, and the half unit that Round-off adds. -/

namespace Sys2Proof.Machine

/-! ### The adjusted address -/

/-- Clearing the low bit of an address rounds it down to an even number. -/
theorem adj_long_toNat (n : Addr) : (adj n true).toNat = 2 * (n.toNat / 2) := by
  have hmod : (adj n true).toNat % 2 = 0 := by
    simp only [adj, if_true, BitVec.toNat_and]
    exact (Nat.and_mod_two_pow (n := 1)).trans (Nat.and_zero _)
  have hdiv : (adj n true).toNat / 2 = n.toNat / 2 := by
    have hhalf : n.toNat / 2 < 2 ^ 10 := by omega
    simp only [adj, if_true, BitVec.toNat_and]
    exact (Nat.and_div_two_pow (n := 1)).trans (Nat.and_two_pow_sub_one_of_lt_two_pow hhalf)
  omega

/-- The second word of a pair: the next address never wraps. -/
theorem adj_long_add_one_toNat (n : Addr) :
    (adj n true + 1#11).toNat = 2 * (n.toNat / 2) + 1 := by
  rw [BitVec.toNat_add, adj_long_toNat, BitVec.toNat_ofNat]
  omega

/-- An even address is its own adjusted address. -/
@[simp] theorem adj_adj (n : Addr) : adj (adj n true) true = adj n true := by
  apply BitVec.eq_of_toNat_eq
  rw [adj_long_toNat, adj_long_toNat]
  omega

@[simp] theorem operand_adj (s : State) (n : Addr) :
    operand s (adj n true) true = operand s n true := by
  simp [operand]

@[simp] theorem State.storeProper_adj (s : State) (n : Addr) :
    s.storeProper (adj n true) true = s.storeProper n true := by
  simp [State.storeProper]

/-- Whichever word of the pair a long Print reads. -/
@[simp] theorem printAddr_adj (n : Addr) : printAddr (adj n true) true = printAddr n true := by
  simp [printAddr]

/-- Settles O10: an order sees its address only through `adj`, `operand`, `storeProper` or
`printAddr`, and none of them tells an address from its adjusted address. -/
theorem addressAdjustment : Obligations.AddressAdjustment :=
  ⟨fun n => ⟨rfl, adj_long_toNat n⟩,
    fun _ _ => rfl,
    fun _ _ =>
      ⟨by simp only [exec, execAdd, operand_adj],
        by simp only [exec, execSubtract, operand_adj],
        by simp only [exec, execLoadMultiplier, operand_adj],
        by simp only [exec, execMultiplyAdd, operand_adj],
        by simp only [exec, execMultiplySubtract, operand_adj],
        by simp only [exec, execCollate, operand_adj],
        by simp only [exec, execTransfer, State.storeProper_adj],
        by simp only [exec, execUntransfer, State.storeProper_adj],
        by simp only [exec, execRead, adj_adj],
        by simp only [exec, execPrint, printAddr_adj],
        by simp only [exec, execPrintCheck, adj_adj]⟩⟩

/-! ### The operand -/

theorem operand_long_toNat (s : State) (n : Addr) :
    (operand s n true).toNat =
      (s.store.read ((2 * (n.toNat / 2) + 1) % 1024)).toNat * 2 ^ 18 +
        (s.store.read (2 * (n.toNat / 2) % 1024)).toNat := by
  have hlow : ((s.memRead (adj n true)).setWidth 18).toNat = (s.memRead (adj n true)).toNat :=
    BitVec.toNat_setWidth_of_le (by decide)
  simp only [operand, if_true, State.longRead, composeLong_toNat, hlow]
  simp only [State.memRead, storeIndex_eq, adj_long_toNat, adj_long_add_one_toNat]

/-- A store word has no bit for the place of the sandwich bit. -/
theorem operand_long_sandwich (s : State) (n : Addr) : (operand s n true).getLsbD 17 = false := by
  have hlow : (operand s n true).getLsbD 17 =
      ((s.memRead (adj n true)).setWidth 18).getLsbD 17 := BitVec.getLsbD_append ..
  rw [hlow, BitVec.getLsbD_setWidth, BitVec.getLsbD_of_ge _ _ (by decide), Bool.and_false]

theorem operand_short_toNat (s : State) (n : Addr) :
    (operand s n false).toNat = (s.store.read (n.toNat % 1024)).toNat * 2 ^ 18 := by
  simp [operand, composeLong_toNat, State.memRead, storeIndex_eq]

/-- Settles O11: both forms by the composition of a long word, at the index of the adjusted
address. -/
theorem operandLayout : Obligations.OperandLayout := fun s n =>
  ⟨operand_long_toNat s n, operand_long_sandwich s n, operand_short_toNat s n⟩

/-! ### The carry and borrow chains as 35-bit arithmetic -/

/-- A long word is its two halves. -/
theorem LongWord.toNat_eq_halves (v : LongWord) :
    v.toNat = (highHalf v).toNat * 2 ^ 18 + (lowHalf v).toNat := by
  rw [← composeLong_toNat, composeLong_halves]

/-- The carry chain adds into the accumulator proper, modulo `2^35`. -/
theorem State.addP_proper (s : State) (v : LongWord) :
    (s.addP v).acc.proper = s.acc.proper + v := by
  have hv := LongWord.toNat_eq_halves v
  apply BitVec.eq_of_toNat_eq
  simp only [State.addP, State.setProperWords_acc, Accumulator.proper, BitVec.toNat_add,
    composeLong_toNat, BitVec.toNat_ofNat, hv]
  omega

/-- The borrow chain subtracts from the accumulator proper, modulo `2^35`. -/
theorem State.subP_proper (s : State) (v : LongWord) :
    (s.subP v).acc.proper = s.acc.proper - v := by
  have hv := LongWord.toNat_eq_halves v
  have hlo := (lowHalf v).isLt
  have hhi := (highHalf v).isLt
  have hw2 := s.acc.w2.isLt
  have hw3 := s.acc.w3.isLt
  apply BitVec.eq_of_toNat_eq
  simp only [State.subP, State.setProperWords_acc, Accumulator.proper, BitVec.toNat_sub,
    composeLong_toNat, BitVec.toNat_ofInt, hv]
  split <;> omega

/-- Settles O12: the carry chain is the only write to `ACC`, and it leaves the working words. -/
theorem addResult : Obligations.AddResult := fun n l s =>
  ⟨_, rfl, State.addP_proper (s.setMc (operand s n l)) (operand s n l), rfl, rfl,
    LongRegister.value_ofValue (operand s n l), rfl⟩

/-- Settles O13: the borrow chain is the only write to `ACC`, and it leaves the working words. -/
theorem subtractResult : Obligations.SubtractResult := fun n l s =>
  ⟨_, rfl, State.subP_proper (s.setMc (operand s n l)) (operand s n l), rfl, rfl,
    LongRegister.value_ofValue (operand s n l), rfl⟩

/-- Settles O14: Collate is the carry chain on the AND, with no write to `MC`. -/
theorem collateResult : Obligations.CollateResult := fun n l s =>
  ⟨_, rfl, State.addP_proper s (operand s n l &&& s.mr.value), rfl, rfl, rfl⟩

/-! ### Add, then Subtract -/

/-- The two words of the accumulator proper are the halves of its value. -/
theorem Accumulator.eq_of_proper_eq {a b : Accumulator} (h0 : a.w0 = b.w0) (h1 : a.w1 = b.w1)
    (hp : a.proper = b.proper) : a = b := by
  have h2 : a.w2 = b.w2 := by
    simpa only [Accumulator.proper, lowHalf_composeLong] using congrArg lowHalf hp
  have h3 : a.w3 = b.w3 := by
    simpa only [Accumulator.proper, highHalf_composeLong] using congrArg highHalf hp
  rcases a with ⟨a0, a1, a2, a3⟩
  rcases b with ⟨b0, b1, b2, b3⟩
  rw [Accumulator.mk.injEq]
  exact ⟨h0, h1, h2, h3⟩

/-- Settles O16: Add leaves the store, so Subtract takes the same operand, and subtracting it modulo
`2^35` undoes the addition also when that wrapped. -/
theorem addThenSubtractRestores : Obligations.AddThenSubtractRestores := by
  intro n l s
  obtain ⟨t, hadd, hproper, hw0, hw1, -, hframe⟩ := addResult n l s
  obtain ⟨u, hsub, uproper, uw0, uw1, umc, -⟩ := subtractResult n l t
  have hstore : t.store = s.store := by rw [hframe]
  have hoperand : operand t n l = operand s n l := operand_congr hstore n l
  have hrestored : u.acc.proper = s.acc.proper := by
    rw [uproper, hoperand, hproper, BitVec.add_sub_cancel]
  exact ⟨t, u, hadd, hsub,
    Accumulator.eq_of_proper_eq (uw0.trans hw0) (uw1.trans hw1) hrestored, umc.trans hoperand⟩

/-! ### Round-off -/

/-- Flipping the top bit of a slot word is adding it modulo `2^18`. -/
theorem SlotWord.xor_top_toNat (w : SlotWord) :
    (w ^^^ 0x20000#18).toNat = (w.toNat + 2 ^ 17) % 2 ^ 18 := by
  have hw := w.isLt
  have hlow : (w.toNat ^^^ 2 ^ 17) % 2 ^ 17 = w.toNat % 2 ^ 17 := by
    rw [Nat.xor_mod_two_pow, Nat.mod_self, Nat.xor_zero]
  have htop : (w.toNat ^^^ 2 ^ 17) / 2 ^ 17 = w.toNat / 2 ^ 17 ^^^ 1 := by
    rw [Nat.xor_div_two_pow, Nat.div_self (by decide)]
  have hxor : (w ^^^ 0x20000#18).toNat = w.toNat ^^^ 2 ^ 17 := BitVec.toNat_xor ..
  have hbit : w.toNat / 2 ^ 17 = 0 ∨ w.toNat / 2 ^ 17 = 1 := by omega
  rcases hbit with hclear | hset
  · rw [hclear, Nat.zero_xor] at htop
    omega
  · rw [hset, Nat.xor_self] at htop
    omega

/-- The top bit of a slot word as a number. -/
theorem SlotWord.top_iff (w : SlotWord) : w.getLsbD 17 = true ↔ 2 ^ 17 ≤ w.toNat := by
  have hmsb : w.msb = w.getLsbD 17 := BitVec.msb_eq_getLsbD_last w
  rw [← hmsb, BitVec.msb_eq_decide, decide_eq_true_eq]

/-- The Accumulator with the half unit of Round-off added: `2^35` is the top bit of `w1`. -/
def Accumulator.roundedOff (a : Accumulator) : Accumulator where
  w0 := a.w0
  w1 := a.w1 ^^^ 0x20000#18
  w2 := lowHalf (a.proper + if a.w1.getLsbD 17 then 1#35 else 0#35)
  w3 := highHalf (a.proper + if a.w1.getLsbD 17 then 1#35 else 0#35)

theorem Accumulator.roundedOff_proper (a : Accumulator) :
    a.roundedOff.proper = a.proper + if a.w1.getLsbD 17 then 1#35 else 0#35 :=
  composeLong_halves _

/-- The composed value as its proper over its working words. -/
theorem Accumulator.value_toNat_proper (a : Accumulator) :
    a.value.toNat = a.w0.toNat + 2 ^ 18 * a.w1.toNat + 2 ^ 36 * a.proper.toNat := by
  rw [Accumulator.value_toNat, Accumulator.proper, composeLong_toNat]
  omega

/-- Adding `2^35` to the composed value: the top bit of `w1` flips, and its carry goes into the
accumulator proper. -/
theorem Accumulator.value_roundedOff (a : Accumulator) :
    a.roundedOff.value = a.value + 0x800000000#71 := by
  have h0 := a.w0.isLt
  have h1 := a.w1.isLt
  have hw1 : a.roundedOff.w1.toNat = (a.w1.toNat + 2 ^ 17) % 2 ^ 18 := SlotWord.xor_top_toNat a.w1
  have hw0 : a.roundedOff.w0.toNat = a.w0.toNat := rfl
  apply BitVec.eq_of_toNat_eq
  rw [BitVec.toNat_add, Accumulator.value_toNat_proper, Accumulator.value_toNat_proper a, hw0, hw1,
    Accumulator.roundedOff_proper, BitVec.toNat_add, BitVec.toNat_ofNat]
  simp only [SlotWord.top_iff]
  split <;> (rw [BitVec.toNat_ofNat]; omega)

theorem execRoundOff_roundedOff (s : State) :
    execRoundOff s = .next { s with
      acc := s.acc.roundedOff
      notices := { s.notices with accumulator := true } } := by
  rw [execRoundOff_spec, ← Accumulator.value_roundedOff, Accumulator.ofValue_value]

/-- Settles O15: Round-off's next Accumulator is `roundedOff`, whose words are the ones stated. -/
theorem roundOffResult : Obligations.RoundOffResult := fun _ _ s =>
  ⟨_, execRoundOff_roundedOff s, rfl, rfl, Accumulator.roundedOff_proper s.acc, rfl⟩

end Sys2Proof.Machine

/-! The multiplier (`41_multiply.md`): Load multiplier, the closed form of Multiply-add and
Multiply-subtract as a congruence modulo `2^71`, and the serial algorithm as a partial product. -/

namespace Sys2Proof.Machine

/-- Settles O17: Load multiplier is one write of `MR`, and a composed value reads back. -/
theorem loadMultiplierResult : Obligations.LoadMultiplierResult := fun n l s =>
  ⟨_, rfl, LongRegister.value_ofValue (operand s n l), rfl⟩

/-! ### A number with its sign reversed or not -/

/-- `x`, or `-x` if `neg` is set: how `sub` and the signs of the two factors enter a product. -/
def signed (neg : Bool) (x : Int) : Int := if neg then -x else x

@[simp] theorem signed_false (x : Int) : signed false x = x := rfl

@[simp] theorem signed_true (x : Int) : signed true x = -x := rfl

theorem signed_zero (neg : Bool) : signed neg 0 = 0 := by
  cases neg <;> simp

theorem signed_add (neg : Bool) (x y : Int) : signed neg (x + y) = signed neg x + signed neg y := by
  cases neg
  · rfl
  · exact Int.neg_add

/-- A sign on a product may stand on its right factor. -/
theorem signed_mul (neg : Bool) (x y : Int) : signed neg (x * y) = x * signed neg y := by
  cases neg
  · rfl
  · exact (Int.mul_neg x y).symm

theorem signed_xor (a b : Bool) (x : Int) : signed (a ^^ b) x = signed a (signed b x) := by
  cases a <;> cases b <;> simp

/-- Sign and magnitude make the number. -/
theorem signed_natAbs (x : Int) : signed (decide (x < 0)) x.natAbs = x := by
  by_cases h : x < 0
  · rw [decide_eq_true h, signed_true, Int.ofNat_natAbs_of_nonpos h.le, Int.neg_neg]
  · rw [decide_eq_false h, signed_false, Int.natAbs_of_nonneg (not_lt.mp h)]

/-- The signs of two factors enter their product together. -/
theorem signed_mul_signed (a b : Bool) (x y : Int) :
    signed a x * signed b y = signed (a ^^ b) (x * y) := by
  cases a <;> cases b <;> simp

/-- The product of the magnitudes under the signs of both factors is the signed product. -/
theorem signed_mul_natAbs (sub : Bool) (m r : Int) :
    signed (sub ^^ decide (m < 0) ^^ decide (r < 0)) (4 * (m.natAbs * r.natAbs)) =
      signed sub (4 * m * r) :=
  calc signed (sub ^^ decide (m < 0) ^^ decide (r < 0)) (4 * (m.natAbs * r.natAbs))
      = 4 * signed sub (signed (decide (m < 0) ^^ decide (r < 0)) (m.natAbs * r.natAbs)) := by
        rw [signed_mul, Bool.xor_assoc, signed_xor]
    _ = 4 * signed sub (m * r) := by
        rw [← signed_mul_signed, signed_natAbs, signed_natAbs]
    _ = signed sub (4 * m * r) := by
        rw [← signed_mul, Int.mul_assoc]

/-! ### The closed form -/

/-- The closed form adds the product with the sign of the order to `ACC`. -/
theorem State.multiply_eq_add_signed (s : State) (sub : Bool) :
    s.multiply sub = (s.setAcc (s.acc.value +
      BitVec.ofInt 71 (signed sub (product s.mc.value s.mr.value)))).setMc 0#35 := by
  have hacc : BitVec.ofInt 71 (s.acc.value.toNat : Int) = s.acc.value := by
    rw [BitVec.ofInt_natCast, BitVec.ofNat_toNat, BitVec.setWidth_eq]
  cases sub
  · rw [State.multiply, signed_false, if_neg Bool.false_ne_true, BitVec.ofInt_add, hacc]
  · rw [State.multiply, signed_true, if_pos rfl, Int.sub_eq_add_neg, BitVec.ofInt_add, hacc]

theorem AccWord.add_ofInt_modEq (a : AccWord) (x : Int) :
    ((a + BitVec.ofInt 71 x).toNat : Int) ≡ a.toNat + x [ZMOD 2 ^ 71] := by
  rw [Int.ModEq, BitVec.toNat_add, BitVec.toNat_ofInt]
  omega

/-- A multiply of the operand `v` as a congruence. -/
theorem State.multiply_value_modEq (s : State) (v : LongWord) (sub : Bool) :
    (((s.setMc v).multiply sub).acc.value.toNat : Int) ≡
      s.acc.value.toNat + signed sub (4 * v.toInt * s.mr.value.toInt) [ZMOD 2 ^ 71] := by
  rw [State.multiply_eq_add_signed, State.setMc_acc, State.setAcc_acc, Accumulator.value_ofValue,
    State.setMc_mc, LongRegister.value_ofValue]
  exact AccWord.add_ofInt_modEq _ _

/-- Settles O18: both orders are the closed form after the operand is put in `MC`. -/
theorem multiplyResult : Obligations.MultiplyResult := fun n l s =>
  ⟨_, _, rfl, rfl, s.multiply_value_modEq (operand s n l) false,
    s.multiply_value_modEq (operand s n l) true, rfl, rfl⟩

/-! ### The serial algorithm -/

/-- One iteration adds the shifted multiplier under the sign, or nothing. -/
theorem serialIteration_eq_add_signed (neg : Bool) (mu : Nat) (a : AccWord) (x i : Nat) :
    serialIteration neg mu (a, x) i =
      (a + BitVec.ofInt 71 (signed neg (x * (mu.testBit i).toNat : Nat)), x * 2) := by
  cases hbit : mu.testBit i
  · simp [serialIteration, hbit, signed_zero]
  · cases neg <;> simp [serialIteration, hbit, BitVec.sub_eq_add_neg, BitVec.ofInt_neg]

/-- After `k` iterations the low `k` bits of the multiplicand's magnitude have been multiplied. -/
theorem foldl_serialIteration (neg : Bool) (mu : Nat) (a : AccWord) (x k : Nat) :
    (List.range k).foldl (serialIteration neg mu) (a, x) =
      (a + BitVec.ofInt 71 (signed neg (x * (mu % 2 ^ k) : Nat)), x * 2 ^ k) := by
  induction k with
  | zero => simp [Nat.mod_one, signed_zero]
  | succ k ih =>
    have hbits : x * (mu % 2 ^ (k + 1)) = x * (mu % 2 ^ k) + x * 2 ^ k * (mu.testBit k).toNat := by
      rw [Nat.mod_pow_succ, ← Nat.toNat_testBit, Nat.mul_add, Nat.mul_assoc]
    rw [List.range_succ, List.foldl_append, ih, List.foldl_cons, List.foldl_nil,
      serialIteration_eq_add_signed, BitVec.add_assoc, ← BitVec.ofInt_add, ← signed_add, hbits,
      Nat.cast_add, Nat.pow_succ, Nat.mul_assoc x (2 ^ k) 2]

/-- 35 iterations see every bit of the multiplicand's magnitude. -/
theorem LongWord.natAbs_toInt_lt (v : LongWord) : v.toInt.natAbs < 2 ^ 35 := by
  have hlo := BitVec.le_toInt v
  have hhi := BitVec.toInt_lt (x := v)
  omega

/-- Settles O19: the partial product of all 35 bits, under the signs of both factors, is the signed
product of the closed form. -/
theorem serialMultiplierIsExact : Obligations.SerialMultiplierIsExact := by
  intro s sub
  have hproduct : (s.mr.value.toInt.natAbs * 4 * s.mc.value.toInt.natAbs : Nat) =
      (4 * (s.mc.value.toInt.natAbs * s.mr.value.toInt.natAbs) : Int) := by
    push_cast
    ring
  rw [State.multiply_eq_add_signed, State.serialMultiply, foldl_serialIteration,
    Nat.mod_eq_of_lt (LongWord.natAbs_toInt_lt s.mc.value), hproduct, signed_mul_natAbs, product]

/-! ### The laws of a multiply -/

/-- The Accumulator is its value modulo `2^71`. -/
theorem Accumulator.eq_of_value_modEq {a b : Accumulator}
    (h : (a.value.toNat : Int) ≡ b.value.toNat [ZMOD 2 ^ 71]) : a = b := by
  have ha := a.value.isLt
  have hb := b.value.isLt
  have hvalue : a.value = b.value := by
    apply BitVec.eq_of_toNat_eq
    rw [Int.ModEq] at h
    omega
  rw [← a.ofValue_value, hvalue, b.ofValue_value]

/-- Settles O20 from the congruences of O18: the product is a multiple of 4, and 0 if a factor is;
and V leaves the store and `MR`, so N takes off the product that V added. -/
theorem multiplyLaws : Obligations.MultiplyLaws := by
  intro n l s
  obtain ⟨t, -, hadd, -, ht, -, htframe, -⟩ := multiplyResult n l s
  obtain ⟨-, u, -, hsub, -, hu, -, -⟩ := multiplyResult n l t
  have hoperand : operand t n l = operand s n l := operand_congr (by rw [htframe]) n l
  have hmr : t.mr = s.mr := by rw [htframe]
  rw [hoperand, hmr] at hu
  refine ⟨t, u, hadd, hsub, ?lowBits, ?zeroFactor, ?restored⟩
  case lowBits =>
    rw [Int.mul_assoc, Int.ModEq] at ht
    omega
  case zeroFactor =>
    intro hzero
    have hproduct : 4 * (operand s n l).toInt * s.mr.value.toInt = 0 := by
      rcases hzero with h | h <;> simp [h]
    rw [hproduct, Int.add_zero] at ht
    exact Accumulator.eq_of_value_modEq ht
  case restored =>
    have hundo := hu.trans (ht.sub_right (4 * (operand s n l).toInt * s.mr.value.toInt))
    rw [Int.add_sub_cancel] at hundo
    exact Accumulator.eq_of_value_modEq hundo

end Sys2Proof.Machine

/-! Transfers to store (`42_transfer.md`): what T and U write and leave, and the operand that a stored
accumulator proper reads back as. -/

namespace Sys2Proof.Machine

/-! ### The stored words -/

theorem Accumulator.ofValue_zero : Accumulator.ofValue 0#71 = ⟨0#18, 0#18, 0#18, 0#17⟩ := by decide

/-- Clearing the Accumulator after a transfer: its four words are 0, and only the store has changed
besides. -/
theorem State.storeProper_clear_frame (s : State) (n : Addr) (l : Bool) :
    (s.storeProper n l).setAcc 0#71 = { s with
      acc := ⟨0#18, 0#18, 0#18, 0#17⟩
      store := (s.storeProper n l).store
      notices := { s.notices with
        accumulator := true, store := (s.storeProper n l).notices.store } } := by
  rw [State.setAcc, Accumulator.ofValue_zero, State.storeProper_frame]

/-- Settles O21: T and U store the same words, and T then writes only `ACC`. -/
theorem transferResult : Obligations.TransferResult := fun n l s hwf =>
  ⟨(s.storeProper n l).setAcc 0#71, s.storeProper n l, rfl, rfl, rfl, State.storeProper_wf n l hwf,
    fun a => State.memRead_storeProper n l a hwf, State.storeProper_clear_frame s n l,
    State.storeProper_frame s n l⟩

/-! ### Storing and adding back -/

/-- The two words of a pair are different store words. -/
theorem storeIndex_adj_ne_succ (n : Addr) :
    storeIndex (adj n true) ≠ storeIndex (adj n true + 1#11) := by
  rw [storeIndex_eq, storeIndex_eq, adj_long_toNat, adj_long_add_one_toNat]
  omega

/-- A high word alone is that word moved up by the width of the low word. -/
theorem composeLong_zero_low (hi : Word) : composeLong 0#18 hi = hi.setWidth 35 <<< 18 := by
  apply BitVec.eq_of_toNat_eq
  rw [composeLong_toNat, BitVec.toNat_shiftLeft, BitVec.toNat_setWidth, Nat.shiftLeft_eq,
    BitVec.toNat_ofNat]
  omega

/-- A low word cut to the width of a store word loses exactly the sandwich bit of the long word. -/
theorem composeLong_drop_sandwich (lo : SlotWord) (hi : Word) :
    composeLong ((lo.setWidth 17).setWidth 18) hi = composeLong lo hi &&& ~~~(1#35 <<< 17) := by
  have hmask : (~~~(1#35 <<< 17)) = composeLong 0x1FFFF#18 0x1FFFF#17 := by decide
  have hlo : (lo.setWidth 17).setWidth 18 = lo &&& 0x1FFFF#18 := by
    apply BitVec.eq_of_toNat_eq
    rw [BitVec.toNat_setWidth_of_le (by decide), BitVec.toNat_setWidth, BitVec.toNat_and]
    exact (Nat.and_two_pow_sub_one_eq_mod lo.toNat 17).symm
  have hhi : hi &&& 0x1FFFF#17 = hi := BitVec.and_allOnes
  rw [hmask, composeLong, composeLong, composeLong, BitVec.and_append, hlo, hhi]

/-- The operand at the address of a transfer: the high word alone, or the accumulator proper without
its sandwich bit. -/
theorem operand_storeProper {s : State} (n : Addr) (l : Bool) (h : s.store.wf = true) :
    operand (s.storeProper n l) n l =
      if l then s.acc.proper &&& ~~~(1#35 <<< 17) else s.acc.w3.setWidth 35 <<< 18 := by
  cases l with
  | false =>
    have hword : (s.storeProper n false).memRead n = s.acc.w3 := by
      rw [State.memRead_storeProper n false n h]
      simp [adj]
    simp [operand, hword, composeLong_zero_low]
  | true =>
    have hlow : (s.storeProper n true).memRead (adj n true) = s.acc.w2.setWidth 17 := by
      rw [State.memRead_storeProper n true _ h]
      simp [storeIndex_adj_ne_succ]
    have hhigh : (s.storeProper n true).memRead (adj n true + 1#11) = s.acc.w3 := by
      rw [State.memRead_storeProper n true _ h]
      simp
    simp only [operand, if_true, State.longRead, hlow, hhigh]
    exact composeLong_drop_sandwich s.acc.w2 s.acc.w3

/-- Settles O22: U leaves `ACC`, so Add adds the operand it reads back to the same accumulator
proper. -/
theorem storeThenAddBack : Obligations.StoreThenAddBack := by
  intro n l s hwf
  obtain ⟨u, hadd, hproper, -⟩ := addResult n l (s.storeProper n l)
  have hacc : (s.storeProper n l).acc = s.acc := by rw [State.storeProper_frame]
  refine ⟨s.storeProper n l, u, rfl, hadd, ?_⟩
  rw [hproper, operand_storeProper n l hwf, hacc]

end Sys2Proof.Machine

/-! The shifter (`43_shift.md`): the lowest set bit of a control word, the counts that orders can
express, and the two shifts as a division, as a multiplication and one after the other. -/

namespace Sys2Proof.Machine

/-! ### The lowest set bit -/

/-- Bit `k` is the lowest set bit of a number: its power of two divides the number and the next one
does not. -/
def IsLowestSetBit (v k : Nat) : Prop := 2 ^ k ∣ v ∧ ¬ 2 ^ (k + 1) ∣ v

theorem IsLowestSetBit.ne_zero {v k : Nat} (h : IsLowestSetBit v k) : v ≠ 0 := by
  rintro rfl
  exact h.2 (dvd_zero _)

/-- The lowest set bit is one of the number's bits. -/
theorem IsLowestSetBit.lt_of_lt {v k bits : Nat} (h : IsLowestSetBit v k) (hv : v < 2 ^ bits) :
    k < bits :=
  (Nat.pow_lt_pow_iff_right (by decide)).mp
    ((Nat.le_of_dvd (Nat.pos_of_ne_zero h.ne_zero) h.1).trans_lt hv)

theorem isLowestSetBit_zero_iff (v : Nat) : IsLowestSetBit v 0 ↔ v % 2 = 1 := by
  rw [IsLowestSetBit, pow_zero, zero_add, pow_one]
  omega

theorem isLowestSetBit_mul_two_pow (v k m : Nat) :
    IsLowestSetBit (v * 2 ^ m) (k + m) ↔ IsLowestSetBit v k := by
  have hpos : 0 < 2 ^ m := by positivity
  rw [IsLowestSetBit, IsLowestSetBit, Nat.add_right_comm, Nat.pow_add, Nat.pow_add,
    Nat.mul_dvd_mul_iff_right hpos, Nat.mul_dvd_mul_iff_right hpos]

theorem isLowestSetBit_double_succ (v k : Nat) :
    IsLowestSetBit (v * 2) (k + 1) ↔ IsLowestSetBit v k :=
  isLowestSetBit_mul_two_pow v k 1

/-- Bits above the lowest set bit do not matter. -/
theorem IsLowestSetBit.add_higher {v k high : Nat} (h : IsLowestSetBit v k)
    (hhigh : 2 ^ (k + 1) ∣ high) : IsLowestSetBit (high + v) k := by
  obtain ⟨hset, hlowest⟩ := h
  have hhigh' : 2 ^ k ∣ high := (Nat.pow_dvd_pow 2 k.le_succ).trans hhigh
  exact ⟨dvd_add hhigh' hset, fun hsum => hlowest ((Nat.dvd_add_right hhigh).mp hsum)⟩

/-- An odd number has no higher lowest set bit. -/
theorem not_isLowestSetBit_succ {v k : Nat} (hodd : v % 2 = 1) : ¬ IsLowestSetBit v (k + 1) := by
  rintro ⟨hset, -⟩
  have htwo : 2 ∣ v := (dvd_pow_self 2 k.succ_ne_zero).trans hset
  omega

/-! ### The shift count -/

theorem trailingZeros_odd {v : Nat} (bits : Nat) (hodd : v % 2 = 1) :
    trailingZeros (bits + 1) v = 0 := by
  rw [trailingZeros, if_pos hodd]

theorem trailingZeros_double (bits v : Nat) :
    trailingZeros (bits + 1) (v * 2) = trailingZeros bits v + 1 := by
  rw [trailingZeros, if_neg (by omega), Nat.mul_div_cancel v (by decide)]

theorem trailingZeros_le (bits v : Nat) : trailingZeros bits v ≤ bits := by
  induction bits generalizing v with
  | zero => exact le_rfl
  | succ bits ih =>
    rw [trailingZeros]
    split
    · exact Nat.zero_le _
    · exact Nat.succ_le_succ (ih _)

/-- The trailing zeros of a nonzero number end at its lowest set bit, by induction on its length. -/
theorem trailingZeros_eq_iff {bits v : Nat} (k : Nat) (hv : v ≠ 0) (hlt : v < 2 ^ bits) :
    trailingZeros bits v = k ↔ IsLowestSetBit v k := by
  induction bits generalizing v k with
  | zero => omega
  | succ bits ih =>
    rcases Nat.mod_two_eq_zero_or_one v with heven | hodd
    · obtain ⟨u, rfl⟩ : ∃ u, v = u * 2 := ⟨v / 2, by omega⟩
      rw [trailingZeros_double]
      cases k with
      | zero => simp [isLowestSetBit_zero_iff]
      | succ k => rw [Nat.add_right_cancel_iff, isLowestSetBit_double_succ,
          ih k (by omega) (by omega)]
    · rw [trailingZeros_odd bits hodd]
      cases k with
      | zero => simp [isLowestSetBit_zero_iff, hodd]
      | succ k => simp [not_isLowestSetBit_succ hodd]

theorem shiftLength_eq_iff {w : Word} (k : Nat) (hw : w ≠ 0#17) :
    shiftLength w = k + 1 ↔ IsLowestSetBit w.toNat k := by
  rw [shiftLength, Nat.add_right_cancel_iff,
    trailingZeros_eq_iff k (BitVec.toNat_ne_iff_ne.mpr hw) w.isLt]

theorem shiftLength_of_isLowestSetBit {w : Word} {k : Nat} (h : IsLowestSetBit w.toNat k) :
    shiftLength w = k + 1 :=
  (shiftLength_eq_iff k (BitVec.toNat_ne_iff_ne.mp h.ne_zero)).mpr h

theorem one_le_shiftLength (w : Word) : 1 ≤ shiftLength w := Nat.le_add_left 1 _

theorem shiftLength_le_17 {w : Word} (hw : w ≠ 0#17) : shiftLength w ≤ 17 :=
  ((shiftLength_eq_iff _ hw).mp rfl).lt_of_lt w.isLt

/-- An order word of zeros counts one past its length. -/
theorem shiftCount_le_18 (f : Code) (n : Addr) (l : Bool) : shiftCount f n l ≤ 18 :=
  Nat.succ_le_succ (trailingZeros_le 17 _)

theorem enc_ne_zero {f : Code} (hf : f ≠ 0#5) (n : Addr) (l : Bool) : enc f n l ≠ 0#17 := by
  intro hzero
  have hcode : codeField 0#17 = f := hzero ▸ codeField_enc f n l
  exact hf (hcode.symm.trans (by decide))

/-- Settles O24: the count is that of the lowest set bit, a word is the word of its fields, and a
word with a nonzero code is not 0. -/
theorem shiftCountIsLowestSetBit : Obligations.ShiftCountIsLowestSetBit :=
  ⟨fun _ k hw => shiftLength_eq_iff k hw, fun w => congrArg shiftLength (enc_fields w),
    fun _ n l hf => ⟨rfl, one_le_shiftLength _, shiftLength_le_17 (enc_ne_zero hf n l)⟩⟩

theorem shiftCount_long (f : Code) (n : Addr) : shiftCount f n true = 1 := by
  apply shiftLength_of_isLowestSetBit
  rw [isLowestSetBit_zero_iff, enc_toNat_fields, Bool.toNat_true]
  omega

/-- The bits of the code stand above every bit of the address. -/
theorem shiftCount_short {n : Addr} {j : Nat} (f : Code) (h : IsLowestSetBit n.toNat j) :
    shiftCount f n false = j + 2 := by
  have hj : j < 11 := h.lt_of_lt n.isLt
  have hcode : 2 ^ (j + 1 + 1) ∣ f.toNat * 2 ^ 12 :=
    Dvd.dvd.mul_left (Nat.pow_dvd_pow 2 (by omega)) _
  apply shiftLength_of_isLowestSetBit
  rw [enc_toNat_fields, Bool.toNat_false, Nat.add_zero]
  exact ((isLowestSetBit_double_succ _ _).mpr h).add_higher hcode

theorem shiftCount_short_zero {f : Code} {j : Nat} (h : IsLowestSetBit f.toNat j) :
    shiftCount f 0#11 false = j + 13 := by
  apply shiftLength_of_isLowestSetBit
  have henc : (enc f 0#11 false).toNat = f.toNat * 2 ^ 12 := by simp [enc_toNat_fields]
  rw [henc]
  exact (isLowestSetBit_mul_two_pow _ _ 12).mpr h

/-- Settles O25: the lowest set bit of the word is the flag, else the address's, else the code's;
the default codes are 4, with lowest set bit 2, and 25, with lowest set bit 0. -/
theorem shiftCountsOfOrders : Obligations.ShiftCountsOfOrders :=
  ⟨shiftCount_long, fun f _ _ hset hlowest => shiftCount_short f ⟨hset, hlowest⟩,
    fun _ _ hset hlowest => shiftCount_short_zero ⟨hset, hlowest⟩,
    shiftCount_short_zero (j := 2) ⟨by decide, by decide⟩,
    shiftCount_short_zero (j := 0) ⟨by decide, by decide⟩⟩

/-! ### The two shifts -/

theorem exec_rightShift (n : Addr) (l : Bool) (s : State) :
    exec (.rightShift n l) s =
      .next (s.setAcc (s.acc.value.sshiftRight (shiftCount s.fnCode.rightShift n l))) := rfl

theorem exec_leftShift (n : Addr) (l : Bool) (s : State) :
    exec (.leftShift n l) s =
      .next (s.setAcc (s.acc.value <<< shiftCount s.fnCode.leftShift n l)) := rfl

/-- Settles O26: an arithmetic shift to the right is floor division, and only `ACC` is written. -/
theorem rightShiftResult : Obligations.RightShiftResult := by
  intro n l s
  refine ⟨_, exec_rightShift n l s, ?_, rfl⟩
  rw [State.setAcc_acc, Accumulator.value_ofValue, BitVec.toInt_sshiftRight,
    Int.shiftRight_eq_div_pow]
  norm_cast

/-- Settles O27: a shift to the left is multiplication, and only `ACC` is written. -/
theorem leftShiftResult : Obligations.LeftShiftResult := by
  intro n l s
  refine ⟨_, exec_leftShift n l s, ?_, rfl⟩
  rw [State.setAcc_acc, Accumulator.value_ofValue, BitVec.toNat_shiftLeft, Nat.shiftLeft_eq]

/-! ### One shift after the other -/

/-- The copies of the sign that come in at the top go out there again. -/
theorem sshiftRight_shiftLeft_toNat {w : Nat} (x : BitVec w) (k : Nat) :
    (x.sshiftRight k <<< k).toNat = x.toNat / 2 ^ k * 2 ^ k := by
  have hclear : x.sshiftRight k <<< k = x >>> k <<< k := by
    apply BitVec.eq_of_getLsbD_eq
    intro i hi
    rw [BitVec.getLsbD_shiftLeft, BitVec.getLsbD_shiftLeft, BitVec.getLsbD_sshiftRight,
      BitVec.getLsbD_ushiftRight]
    by_cases hk : i < k
    · simp [hk]
    · rw [if_pos (show k + (i - k) < w by omega), decide_eq_false (show ¬ w ≤ i - k by omega)]
      simp
  have hle : x.toNat / 2 ^ k * 2 ^ k ≤ x.toNat := Nat.div_mul_le_self _ _
  rw [hclear, BitVec.toNat_shiftLeft, BitVec.toNat_ushiftRight, Nat.shiftLeft_eq,
    Nat.shiftRight_eq_div_pow, Nat.mod_eq_of_lt (hle.trans_lt x.isLt)]

/-- A bit of the value shifted up and back: the lower ones are restored, the top `k` are copies of
the bit that the shift to the left moved into the sign. -/
theorem AccWord.getLsbD_shiftLeft_sshiftRight (x : AccWord) {k i : Nat} (hk : k ≤ 70)
    (hi : i ≤ 70) :
    ((x <<< k).sshiftRight k).getLsbD i = x.getLsbD (if k + i ≤ 70 then i else 70 - k) := by
  have hi' : ¬ 71 ≤ i := by omega
  rw [BitVec.getLsbD_sshiftRight, decide_eq_false hi', Bool.not_false, Bool.true_and]
  by_cases hlow : k + i ≤ 70
  · rw [if_pos (by omega), if_pos hlow, BitVec.getLsbD_shiftLeft,
      decide_eq_true (show k + i < 71 by omega)]
    simp
  · rw [if_neg (by omega), if_neg hlow, BitVec.msb_eq_getLsbD_last, BitVec.getLsbD_shiftLeft,
      decide_eq_false (show ¬ 71 - 1 < k by omega)]
    simp

/-- Shifting up and back restores a value exactly when the sign and the next `k` bits agree. -/
theorem AccWord.shiftLeft_sshiftRight_eq_iff (x : AccWord) {k : Nat} (hk : k ≤ 70) :
    (x <<< k).sshiftRight k = x ↔
      ∀ j : Nat, 70 - k ≤ j → j ≤ 70 → x.getLsbD j = x.getLsbD 70 := by
  constructor
  case mp =>
    intro hrestored
    have hcopy : ∀ j : Nat, 70 - k ≤ j → j ≤ 70 → x.getLsbD j = x.getLsbD (70 - k) := by
      intro j hj hj70
      have hbit := AccWord.getLsbD_shiftLeft_sshiftRight x hk hj70
      rw [hrestored] at hbit
      rcases Nat.lt_or_ge 70 (k + j) with hhigh | hlow
      · rwa [if_neg (by omega)] at hbit
      · rw [show j = 70 - k by omega]
    exact fun j hj hj70 => (hcopy j hj hj70).trans (hcopy 70 (by omega) le_rfl).symm
  case mpr =>
    intro hequal
    apply BitVec.eq_of_getLsbD_eq
    intro i hi
    rw [AccWord.getLsbD_shiftLeft_sshiftRight x hk (by omega)]
    split
    · rfl
    · rw [hequal (70 - k) le_rfl (by omega), hequal i (by omega) (by omega)]

theorem Accumulator.ofValue_eq_iff (v : AccWord) (a : Accumulator) :
    Accumulator.ofValue v = a ↔ v = a.value := by
  constructor
  · rintro rfl
    rw [Accumulator.value_ofValue]
  · rintro rfl
    exact a.ofValue_value

/-- Settles O28: the first order leaves the table, so the second shifts by the same count, which is
far below the length of `ACC`. -/
theorem shiftLaws : Obligations.ShiftLaws := by
  intro n m l k s hcount
  refine ⟨⟨_, _, exec_rightShift n l s, exec_leftShift m k _, ?rightThenLeft⟩,
    ⟨_, _, exec_leftShift m k s, exec_rightShift n l _, ?leftThenRight⟩⟩
  case rightThenLeft =>
    simp only [State.setAcc_acc, State.setAcc_fnCode, Accumulator.value_ofValue, ← hcount]
    exact sshiftRight_shiftLeft_toNat s.acc.value _
  case leftThenRight =>
    have hle : shiftCount s.fnCode.rightShift n l ≤ 70 := (shiftCount_le_18 _ n l).trans (by decide)
    simp only [State.setAcc_acc, State.setAcc_fnCode, Accumulator.value_ofValue, ← hcount,
      Accumulator.ofValue_eq_iff]
    exact AccWord.shiftLeft_sshiftRight_eq_iff s.acc.value hle

end Sys2Proof.Machine

/-! Branches, No-op, Halt and Invalid (`44_control.md`): the sign that a branch tests, what each of the
orders does, and the whole cycle of the three that cost 15 ticks and leave the registers alone. -/

namespace Sys2Proof.Machine

/-! ### Branches -/

/-- The tested bit is the sign of the composed Accumulator. -/
theorem accNegative_iff (s : State) : accNegative s = true ↔ s.acc.value.toInt < 0 :=
  s.acc.value_neg_iff

theorem exec_branchNonneg (n : Addr) (l : Bool) (s : State) :
    exec (.branchNonneg n l) s = .next (if 0 ≤ s.acc.value.toInt then s.setScr n else s) := by
  change Host.Outcome.next (if accNegative s then s else s.setScr n) = _
  by_cases hneg : s.acc.value.toInt < 0
  · rw [if_pos ((accNegative_iff s).mpr hneg), if_neg (not_le.mpr hneg)]
  · rw [if_neg (mt (accNegative_iff s).mp hneg), if_pos (not_lt.mp hneg)]

theorem exec_branchNeg (n : Addr) (l : Bool) (s : State) :
    exec (.branchNeg n l) s = .next (if s.acc.value.toInt < 0 then s.setScr n else s) := by
  change Host.Outcome.next (if accNegative s then s.setScr n else s) = _
  simp only [accNegative_iff]

/-- Settles O29: the branch taken is a write of `SCR`, and nothing else is written. -/
theorem branchResult : Obligations.BranchResult := fun n l s =>
  ⟨exec_branchNonneg n l s, exec_branchNeg n l s⟩

/-! ### No-op, Halt and Invalid -/

theorem exec_noop (n : Addr) (l : Bool) (s : State) : exec (.noop n l) s = .next s := rfl

theorem exec_halt (n : Addr) (l : Bool) (s : State) :
    exec (.halt n l) s =
      .next ({ s with notices := { s.notices with stopIndicator := true,
                                                  bell := s.config.bell } }.raiseHalt .haltOrder) :=
  rfl

theorem exec_invalid (f : Code) (n : Addr) (l : Bool) (s : State) :
    exec (.invalid f n l) s = .next (s.raiseHalt .invalidOrder) := rfl

/-- With no request pending there is none to discard. -/
theorem State.raiseHalt_of_noRequest {s : State} (c : Cause) (h : s.stopReq = none) :
    s.raiseHalt c = { s with status := .halted, ra := resetAllowed c, cause := c } := by
  rw [State.raiseHalt, ← h]

/-! ### The cycle of an order by its dispatch entry -/

/-- The dispatch entries whose cost is not the 15 ticks of all others (`70_reset_and_hazards.md` rule
R250). -/
def costlyEntries : List (Option Operation) :=
  [some .multiplyAdd, some .multiplySubtract, some .read, some .print]

theorem tickCost_of_not_costly {fc : FnCode} {f : Code} (h : dispatch fc f ∉ costlyEntries) :
    tickCost fc f = 15 := by
  unfold tickCost
  split
  case h_5 => rfl
  all_goals
    rename_i hentry
    exact absurd (hentry ▸ by decide) h

theorem dispatch_of_eq_code {fc : FnCode} {f : Code} {op : Operation} (h : fc.wf = true)
    (hf : f = fc.code op) : dispatch fc f = some op := by
  rw [hf, dispatch_code h]

theorem State.nextOrder_of_dispatch {s : State} {op : Option Operation} (h : s.fnCode.wf = true)
    (hop : dispatch s.fnCode (codeField s.fetchWord) = op) :
    s.nextOrder = .ok (instrOf op (codeField s.fetchWord) (addrField s.fetchWord)
      (longField s.fetchWord)) := by
  rw [State.nextOrder, decodeWith_wf h, hop]

/-- The step of a machine that is ready to run an order of 15 ticks: the dispatch entry's order on the
fetched state, charged. -/
theorem ReadyToCycle.step_of_dispatch {s u : State} {op : Option Operation} (h : ReadyToCycle s)
    (hop : dispatch s.fnCode (codeField s.fetchWord) = op) (hcost : op ∉ costlyEntries)
    (hu : exec (instrOf op (codeField s.fetchWord) (addrField s.fetchWord) (longField s.fetchWord))
      { s with notices := {} }.fetch = .next u) :
    step s = .next (u.charge 15) := by
  have hnext : s.nextCost = 15 := tickCost_of_not_costly (hop ▸ hcost)
  rw [h.step_of_exec (State.nextOrder_of_dispatch h.tableAdmitted hop) hu, hnext]

/-- Settles O30: the fetch and the charge are all that the cycle does. -/
theorem noopCycle : Obligations.NoopCycle := by
  refine ⟨exec_noop, fun s hready hcode => ?_⟩
  have hop := dispatch_of_eq_code (op := .noop) hready.tableAdmitted hcode
  exact hready.step_of_dispatch hop (by decide) (exec_noop _ _ _)

/-- Settles O31: between the fetch and the charge Z requests the stop indicator and the bell and raises
the halt, which finds no request to discard. -/
theorem haltCycle : Obligations.HaltCycle := by
  refine ⟨exec_halt, fun s hready hcode => ?_⟩
  have hop := dispatch_of_eq_code (op := .halt) hready.tableAdmitted hcode
  rw [hready.step_of_dispatch hop (by decide) (exec_halt _ _ _), State.raiseHalt_of_noRequest]
  · rfl
  · exact hready.noRequest

/-- Settles O32: a code that no operation has is dispatched to Invalid, which only raises the halt. -/
theorem invalidCycle : Obligations.InvalidCycle := by
  refine ⟨exec_invalid, fun s hready hcode => ?_⟩
  have hop := (dispatch_eq_none_iff s.fnCode _).mpr hcode
  rw [hready.step_of_dispatch hop (by decide) (exec_invalid _ _ _ _), State.raiseHalt_of_noRequest]
  · rfl
  · exact hready.noRequest

end Sys2Proof.Machine

/-! Input and output (`45_io.md`): what Read answers to each tape item, what Print emits and
Print-check stores, the cycle of a failed Read, and the two laws of rule R198. -/

namespace Sys2Proof.Machine

/-! ### Read -/

@[simp] theorem adj_short (n : Addr) : adj n false = n := rfl

/-- A stored value of at most 17 bits is read back as it is. -/
theorem State.memRead_memWrite_narrow {s : State} {k : Nat} (a b : Addr) (v : BitVec k)
    (h : s.store.wf = true) (hv : v.toNat < 2 ^ 17) :
    ((s.memWrite a v).memRead b).toNat =
      if storeIndex b = storeIndex a then v.toNat else (s.memRead b).toNat := by
  rw [State.memRead_memWrite_toNat a b v h, storeIndex_eq, storeIndex_eq, Nat.mod_eq_of_lt hv]

theorem exec_read_code {s : State} {c : Code} {rest : List TapeItem} (n : Addr) (l : Bool)
    (h : s.tape = .code c :: rest) :
    exec (.read n l) s = .next ({ s with tape := rest }.memWrite (adj n l) c) := by
  simp only [exec, execRead, h, tapeNext]

theorem tapeNext_end {tape : List TapeItem} (h : tape = [] ∨ tape.head? = some .endOfTape) :
    tapeNext tape = (.endOfTape, tape) := by
  obtain rfl | hhead := h
  · rfl
  · obtain ⟨rest, rfl⟩ := List.head?_eq_some_iff.mp hhead
    rfl

theorem exec_read_end {s : State} (n : Addr) (l : Bool)
    (h : s.tape = [] ∨ s.tape.head? = some .endOfTape) :
    exec (.read n l) s = .next (s.failRead .tapeEnd) := by
  simp only [exec, execRead, tapeNext_end h]

theorem exec_read_invalidCharacter {s : State} {line char : Nat} {rest : List TapeItem} (n : Addr)
    (l : Bool) (h : s.tape = .invalidCharacter line char :: rest) :
    exec (.read n l) s = .next ({ s with
      tape := rest
      notices := { s.notices with tapeReport := some (line, char) } }.failRead .tapeError) := by
  simp only [exec, execRead, h, tapeNext]

/-- Settles O33: the Read of a code is one write of the store. -/
theorem readStoresCode : Obligations.ReadStoresCode := fun n l _ c _ hwf htape =>
  ⟨_, exec_read_code n l htape,
    fun a => State.memRead_memWrite_narrow (adj n l) a c hwf (c.isLt.trans (by decide)), rfl⟩

/-! ### The cycle of a failed Read -/

theorem tickCost_read {fc : FnCode} {f : Code} (h : dispatch fc f = some .read) :
    tickCost fc f = 215 := by
  rw [tickCost, h]

/-- The step of a machine that is ready to run a Read: the Read on the fetched state, charged. -/
theorem ReadyToCycle.step_of_read {s u : State} (h : ReadyToCycle s)
    (hcode : codeField s.fetchWord = s.fnCode.read)
    (hu : exec (.read (addrField s.fetchWord) (longField s.fetchWord))
      { s with notices := {} }.fetch = .next u) :
    step s = .next (u.charge 215) := by
  have hop := dispatch_of_eq_code (op := .read) h.tableAdmitted hcode
  have hcost : s.nextCost = 215 := tickCost_read hop
  rw [h.step_of_exec (State.nextOrder_of_dispatch h.tableAdmitted hop) hu, hcost]

/-- A Read that fails straight after its fetch leaves `SCR` as before the fetch. -/
theorem State.failRead_fetch {s : State} (c : Cause) (h : s.stopReq = none) :
    s.fetch.failRead c = { s with
      ord := s.fetchWord, status := .halted, ra := resetAllowed c, cause := c
      notices := { s.notices with sequenceControl := true, order := true } } := by
  have hscr : s.scr + 1#11 - 1#11 = s.scr := BitVec.add_sub_cancel s.scr 1#11
  rw [State.failRead_spec, State.fetch_spec]
  simp only [hscr, ← h]

/-- Settles O34: the Read's failure undoes the fetch's step of `SCR`, and the charge adds its cost;
the report of an invalid character may as well be made before the fetch. -/
theorem failedReadCycle : Obligations.FailedReadCycle := by
  intro s hready hcode failed
  constructor
  case left =>
    intro htape
    have hfail := State.failRead_fetch (s := { s with notices := {} }) .tapeEnd hready.noRequest
    rw [hready.step_of_read hcode (exec_read_end _ _ htape), hfail]
    rfl
  case right =>
    intro line char rest htape
    have hfail := State.failRead_fetch
      (s := { s with tape := rest, notices := { tapeReport := some (line, char) } })
      .tapeError hready.noRequest
    rw [hready.step_of_read hcode (exec_read_invalidCharacter _ _ htape)]
    exact congrArg (fun u : State => Host.Outcome.next (u.charge 215)) hfail

/-! ### Print and Print-check -/

theorem exec_print (n : Addr) (l : Bool) (s : State) :
    exec (.print n l) s = .next { s with
      lp := codeField (s.memRead (printAddr n l))
      output := s.output ++ [codeField (s.memRead (printAddr n l))] } := rfl

theorem exec_printCheck (n : Addr) (l : Bool) (s : State) :
    exec (.printCheck n l) s = .next (s.memWrite (adj n l) (s.lp.setWidth 17 <<< 12)) := rfl

theorem printAddr_long_even (n : Addr) (h : Config.printLongAddr = .even) :
    printAddr n true = adj n true := by
  rw [printAddr, if_pos rfl, h]

theorem printAddr_long_odd (n : Addr) (h : Config.printLongAddr = .odd) :
    printAddr n true = adj n true + 1#11 := by
  rw [printAddr, if_pos rfl, h]

/-- The function-code position of an order word: five bits over twelve zeros. -/
theorem codeShifted_toNat (c : Code) : (c.setWidth 17 <<< 12).toNat = c.toNat * 2 ^ 12 := by
  rw [BitVec.toNat_shiftLeft, BitVec.toNat_setWidth_of_le (by decide), Nat.shiftLeft_eq]
  omega

/-- The mask of rule R198 keeps the top five bits of a word in their place. -/
theorem Word.and_codeMask_toNat (w : Word) :
    (w &&& 0x1F000#17).toNat = w.toNat / 2 ^ 12 * 2 ^ 12 := by
  have hlow : (w &&& 0x1F000#17).toNat % 2 ^ 12 = 0 := by
    rw [BitVec.toNat_and]
    exact Nat.and_mod_two_pow.trans (Nat.and_zero _)
  have hhigh : (w &&& 0x1F000#17).toNat / 2 ^ 12 = w.toNat / 2 ^ 12 := by
    rw [BitVec.toNat_and]
    exact Nat.and_div_two_pow.trans (Nat.and_two_pow_sub_one_of_lt_two_pow (n := 5) (by omega))
  omega

/-- Settles O35: the address stated is `printAddr`, for both values of the parameter, and Print hands
the code at it to the sink and to `LP`. -/
theorem printResult : Obligations.PrintResult := by
  intro n l s a hshort heven hodd
  have haddr : printAddr n l = a := by
    cases l with
    | false => exact (hshort rfl).symm
    | true =>
      apply BitVec.eq_of_toNat_eq
      cases hparam : Config.printLongAddr with
      | even => rw [printAddr_long_even n hparam, adj_long_toNat, heven rfl hparam]
      | odd => rw [printAddr_long_odd n hparam, adj_long_add_one_toNat, hodd rfl hparam]
  refine ⟨_, exec_print n l s, ?_, rfl⟩
  rw [haddr]
  exact codeField_toNat (s.memRead a)

/-- Settles O36: Print-check is one write of the store. -/
theorem printCheckResult : Obligations.PrintCheckResult := by
  intro n l s hwf
  refine ⟨_, exec_printCheck n l s, fun a => ?_, rfl⟩
  rw [State.memRead_memWrite_narrow (adj n l) a _ hwf (BitVec.isLt _), codeShifted_toNat]

/-- Settles O37: Print leaves the store and sets `LP` to the code that Print-check then puts back in
its place. -/
theorem printThenCheck : Obligations.PrintThenCheck := by
  intro x y s hwf
  obtain ⟨t, hprint, hlp, -⟩ := printResult x false s x (fun _ => rfl) nofun nofun
  obtain ⟨u, hcheck, hmem, -⟩ := printCheckResult y false t (exec_store_wf hprint hwf)
  refine ⟨t, u, hprint, hcheck, ?_⟩
  apply BitVec.eq_of_toNat_eq
  rw [hmem y, adj_short, if_pos rfl, hlp, Word.and_codeMask_toNat]

/-! ### A code from the tape to the output -/

/-- A code that stands alone in the Accumulator, from bit `k` on. -/
theorem AccWord.extract_code {v : AccWord} {c : Code} {k : Nat} (h : v.toNat = c.toNat * 2 ^ k) :
    v.extractLsb' k 5 = c := by
  apply BitVec.eq_of_toNat_eq
  rw [BitVec.extractLsb'_toNat, h, Nat.shiftRight_eq_div_pow, Nat.mul_div_cancel _ (by positivity),
    Nat.mod_eq_of_lt c.isLt]

/-- From a clear Accumulator, Add of a word that holds a code places the code at `ACC[58:54]`. -/
theorem exec_add_code {s : State} {x : Addr} {c : Code}
    (hclear : s.acc = ⟨0#18, 0#18, 0#18, 0#17⟩) (hword : (s.memRead x).toNat = c.toNat) :
    ∃ t : State, exec (.add x false) s = .next t ∧ t.acc.value.toNat = c.toNat * 2 ^ 54 ∧
      t.output = s.output := by
  obtain ⟨t, hadd, hproper, hw0, hw1, -, hframe⟩ := addResult x false s
  have hoperand : (operand s x false).toNat = c.toNat * 2 ^ 18 := by
    simp [operand, composeLong_toNat, hword]
  have hzero : (Accumulator.mk 0#18 0#18 0#18 0#17).proper = 0#35 := by decide
  refine ⟨t, hadd, ?_, by rw [hframe]⟩
  rw [Accumulator.value_toNat_proper, hproper, hw0, hw1, hclear, hzero, BitVec.zero_add, hoperand,
    BitVec.toNat_ofNat]
  omega

/-- `L 1024 F` moves a code from `ACC[58:54]` to `ACC[70:66]`. -/
theorem exec_leftShift_code {s : State} {c : Code} (h : s.acc.value.toNat = c.toNat * 2 ^ 54) :
    ∃ t : State, exec (.leftShift 1024#11 false) s = .next t ∧
      t.acc.value.toNat = c.toNat * 2 ^ 66 ∧ t.output = s.output := by
  obtain ⟨t, hshift, hvalue, hframe⟩ := leftShiftResult 1024#11 false s
  have hcount : shiftCount s.fnCode.leftShift 1024#11 false = 12 :=
    shiftCount_short (j := 10) _ ⟨by decide, by decide⟩
  refine ⟨t, hshift, ?_, by rw [hframe]⟩
  rw [hvalue, hcount, h]
  omega

/-- The high word of an Accumulator that holds a code at `ACC[70:66]` has it in the function-code
position. -/
theorem Accumulator.w3_of_code {a : Accumulator} {c : Code} (h : a.value.toNat = c.toNat * 2 ^ 66) :
    a.w3.toNat / 2 ^ 12 = c.toNat := by
  have h0 := a.w0.isLt
  have h1 := a.w1.isLt
  have h2 := a.w2.isLt
  rw [Accumulator.value_toNat] at h
  omega

/-- The word that a short U leaves at its address. -/
theorem State.memRead_storeProper_short {s : State} (n : Addr) (h : s.store.wf = true) :
    (s.storeProper n false).memRead n = s.acc.w3 := by
  simp [State.memRead_storeProper n false n h]

/-- Settles O38, order by order: the code is stored, added at bit 54, shifted by 12 to the top,
stored with the high word and printed from there. -/
theorem readShiftPrint : Obligations.ReadShiftPrint := by
  intro x z s c rest hwf htape hclear
  obtain ⟨s1, hread, hmem, hframe1⟩ := readStoresCode x false s c rest hwf htape
  have hword : (s1.memRead x).toNat = c.toNat := by
    rw [hmem x, adj_short, if_pos rfl]
  have hclear1 : s1.acc = ⟨0#18, 0#18, 0#18, 0#17⟩ := (congrArg State.acc hframe1).trans hclear
  obtain ⟨s2, hadd, hacc2, houtput2⟩ := exec_add_code hclear1 hword
  obtain ⟨s3, hshift, hacc3, houtput3⟩ := exec_leftShift_code hacc2
  have hwf3 : s3.store.wf = true :=
    exec_store_wf hshift (exec_store_wf hadd (exec_store_wf hread hwf))
  have hstored : (s3.storeProper z false).memRead z = s3.acc.w3 :=
    State.memRead_storeProper_short z hwf3
  obtain ⟨s5, hprint, hlp, hframe5⟩ :=
    printResult z false (s3.storeProper z false) z (fun _ => rfl) nofun nofun
  have hcode : s5.lp = c := by
    apply BitVec.eq_of_toNat_eq
    rw [hlp, hstored, Accumulator.w3_of_code hacc3]
  have houtput : s3.output = s.output := by rw [houtput3, houtput2, hframe1]
  refine ⟨s1, s2, s3, _, s5, hread, hadd, hshift, rfl, hprint, AccWord.extract_code hacc2,
    AccWord.extract_code hacc3, ?_⟩
  rw [hframe5, hcode]
  exact congrArg (· ++ [c]) houtput

end Sys2Proof.Machine

/-! The engine's run loop and the host's operations (`60_exceptions.md`): when an operation is permitted,
that no step faults, and what a halting order leaves. -/

namespace Sys2Proof.Machine

/-! ### When a host operation is permitted -/

theorem State.atRest_iff (s : State) :
    s.atRest = true ↔ s.status = .idle ∨ s.status = .halted := by
  simp [State.atRest]

theorem State.underWay_iff (s : State) :
    s.underWay = true ↔ s.status = .running ∨ s.status = .loading := by
  simp [State.underWay]

theorem State.not_underWay_of_atRest {s : State} (h : s.status = .idle ∨ s.status = .halted) :
    ¬ s.underWay = true := by
  rcases h with h | h <;> simp [State.underWay, h]

theorem State.mayStart_iff (s : State) :
    (s.atRest && !s.wait) = true ↔ (s.status = .idle ∨ s.status = .halted) ∧ s.wait = false := by
  rw [Bool.and_eq_true, Bool.not_eq_true', State.atRest_iff]

theorem State.mayResume_iff (s : State) :
    s.mayResume = true ↔ s.status = .halted ∧ s.ra = true ∧ s.wait = false := by
  simp [State.mayResume, and_assoc]

/-! ### Every step answers -/

/-- Every order has a meaning in every state. -/
theorem exec_total (i : Instr) (s : State) : ∃ t, exec i s = .next t := by
  cases i with
  | read n l =>
    obtain ⟨c, rest, htape, -⟩ | ⟨line, char, rest, htape, -⟩ | ⟨hend, -⟩ := tapeNext_cases s.tape
    · exact ⟨_, exec_read_code n l htape⟩
    · exact ⟨_, exec_read_invalidCharacter n l htape⟩
    · exact ⟨_, exec_read_end n l (hend.imp_right fun ⟨rest, h⟩ => by rw [h]; rfl)⟩
  | _ => exact ⟨_, rfl⟩

theorem State.nextOrder_total {s : State} (h : s.fnCode.wf = true) : ∃ i, s.nextOrder = .ok i :=
  ⟨_, decodeWith_wf h s.fetchWord⟩

/-- Under a well-formed table every cycle answers. -/
theorem cycle_total {s : State} (h : s.fnCode.wf = true) : ∃ t, cycle s = .next t := by
  obtain ⟨i, hi⟩ := State.nextOrder_total h
  obtain ⟨u, hu⟩ := exec_total i s.fetch
  exact ⟨_, cycle_of_exec hi hu⟩

/-- The engine's own step answers, unless it would run a cycle. -/
theorem engineStep_total {s : State}
    (h : ¬ (s.wait = false ∧ s.status = .running ∧ s.stopReq = none)) :
    ∃ t, engineStep s = .next t := by
  unfold engineStep
  split
  case isTrue => exact ⟨_, rfl⟩
  case isFalse hwait =>
    split
    case h_4 hrun =>
      split
      case h_1 => exact ⟨_, rfl⟩
      case h_2 hreq => exact absurd ⟨Bool.eq_false_of_not_eq_true hwait, hrun, hreq⟩ h
    all_goals exact ⟨_, rfl⟩

/-- Of the host's operations only a permitted single step runs a cycle. -/
theorem hostAct_total {e : HostEvent} {s : State} (hquiet : e ≠ .quiet)
    (hstep : e = .step → ¬ s.mayResume = true) : ∃ t, hostAct e s = .next t := by
  cases e with
  | quiet => exact absurd rfl hquiet
  | step => exact ⟨s, hostAct_step_refused (hstep rfl)⟩
  | _ => exact ⟨_, rfl⟩

theorem runsCycle_of_hostQuiet {s : State} (hquiet : hostQuiet s = true) :
    runsCycle s = true ↔ s.wait = false ∧ s.status = .running ∧ s.stopReq = none := by
  have hasks : hostAsksStep s = false := by
    unfold hostQuiet at hquiet
    unfold hostAsksStep
    split at hquiet <;> simp_all
  simp [runsCycle, hquiet, hasks, and_assoc]

/-- A step that runs no cycle answers, whatever the table. -/
theorem step_total_of_not_runsCycle {s : State} (h : runsCycle s = false) :
    ∃ t, step s = .next t := by
  by_cases hquiet : hostQuiet s = true
  · rw [step_of_hostQuiet hquiet]
    exact engineStep_total (s := s.stepBase)
      (mt (runsCycle_of_hostQuiet hquiet).mpr (Bool.eq_false_iff.mp h))
  · rcases step_cases s with ⟨hnil, -⟩ | ⟨e, rest, hevents, heq⟩
    · simp [hostQuiet, hnil] at hquiet
    · rw [heq]
      refine hostAct_total ?_ ?_
      · rintro rfl
        simp [hostQuiet, hevents] at hquiet
      · rintro rfl hmay
        have hresume : s.mayResume = true := hmay
        simp [runsCycle, hostAsksStep, hevents, hresume] at h

/-- Settles O40: a step that runs a cycle is that cycle, and every other step answers. -/
theorem everyStepAnswersNext : Obligations.EveryStepAnswersNext := by
  refine fun s => ⟨fun h => ?_, fun htable hruns => ?_⟩
  · by_cases hruns : runsCycle s = true
    · rw [step_of_runsCycle hruns]
      exact cycle_total (s := s.stepBase) (h.resolve_right (by simp [hruns]))
    · exact step_total_of_not_runsCycle (Bool.eq_false_of_not_eq_true hruns)
  · rw [step_of_runsCycle hruns]
    exact cycle_refused (s := s.stepBase) htable

/-! ### The halt that an order raises -/

/-- What an order does to the control state: nothing if it raises no halt, and else exactly what
`raise Halt` writes for the cause of rule R211. -/
def OrderControl (i : Instr) (s t : State) : Prop :=
  (raisedCause i s.tape = none ∧ SameControl s t) ∨
    ∃ c, raisedCause i s.tape = some c ∧ HaltedWith c t

theorem execRead_orderControl {s t : State} {n : Addr} {l : Bool} (h : execRead n l s = .next t) :
    OrderControl (.read n l) s t := by
  obtain ⟨tape, ⟨c, hitem, rfl⟩ | ⟨hitem, rfl⟩ | ⟨line, char, notices, hitem, rfl⟩⟩ :=
    execRead_cases h
  · exact .inl ⟨by simp only [raisedCause, Instr.operation, hitem], ⟨rfl, rfl, rfl, rfl⟩⟩
  · exact .inr ⟨.tapeEnd, by simp only [raisedCause, Instr.operation, hitem],
      State.raiseHalt_haltedWith _ _⟩
  · exact .inr ⟨.tapeError, by simp only [raisedCause, Instr.operation, hitem],
      State.raiseHalt_haltedWith _ _⟩

theorem exec_orderControl {i : Instr} {s t : State} (h : exec i s = .next t) :
    OrderControl i s t := by
  cases i with
  | halt n l =>
    obtain rfl := Host.Outcome.next.inj h
    exact .inr ⟨.haltOrder, rfl, State.raiseHalt_haltedWith _ _⟩
  | invalid f n l =>
    obtain rfl := Host.Outcome.next.inj h
    exact .inr ⟨.invalidOrder, rfl, State.raiseHalt_haltedWith _ _⟩
  | read n l => exact execRead_orderControl h
  | _ =>
    exact .inl ⟨rfl, (exec_writesOnlyOwn h).sameControl (by simp [Instr.operation, haltRaisers])⟩

/-- The fetch and the charge touch neither the control state nor the tape. -/
theorem cycle_orderControl {s t : State} (h : cycle s = .next t) :
    ∃ i, s.nextOrder = .ok i ∧ OrderControl i s t := by
  obtain ⟨-, i, u, hi, hexec, rfl⟩ := cycle_next h
  refine ⟨i, hi, ?_⟩
  obtain ⟨hnone, same⟩ | ⟨c, hc, halted⟩ := exec_orderControl hexec
  · exact .inl ⟨hnone, same.status, same.cause, same.ra, same.stopReq⟩
  · exact .inr ⟨c, hc, halted.status, halted.cause, halted.ra, halted.stopReq⟩

/-- Settles O53: a running engine that an order leaves halted has been halted by it. -/
theorem haltingOrderDiscardsRequest : Obligations.HaltingOrderDiscardsRequest := by
  intro i s t hrun hexec hhalted
  obtain ⟨-, same⟩ | ⟨c, hc, halted⟩ := exec_orderControl hexec
  · rw [same.status, hrun] at hhalted
    cases hhalted
  · rw [halted.cause]
    exact ⟨hc, halted.stopReq, halted.ra⟩

/-! ### The transition table -/

/-- The orders that halt, each with the causes it can record (rule R211). -/
def HaltsWith (i : Instr) (c : Cause) : Prop :=
  (i.operation = some .halt ∧ c = .haltOrder) ∨
    (i.operation = none ∧ c = .invalidOrder) ∨
    (i.operation = some .read ∧ (c = .tapeEnd ∨ c = .tapeError))

theorem haltsWith_of_raisedCause {i : Instr} {tape : List TapeItem} {c : Cause}
    (h : raisedCause i tape = some c) : HaltsWith i c := by
  unfold raisedCause at h
  split at h
  case h_1 hop => exact .inl ⟨hop, (Option.some.inj h).symm⟩
  case h_2 hop => exact .inr (.inl ⟨hop, (Option.some.inj h).symm⟩)
  case h_3 hop =>
    refine .inr (.inr ⟨hop, ?_⟩)
    split at h
    case h_1 => cases h
    case h_2 => exact .inl (Option.some.inj h).symm
    case h_3 => exact .inr (Option.some.inj h).symm
  case h_4 => cases h

/-- The row of rule R219 from `loading` to `running`. -/
def LoadingEnds (s t : State) : Prop :=
  s.status = .loading ∧ s.ordersLength ≤ s.bootNext ∧ t.status = .running

/-- The rows of rule R219 from `running` to `halted`. -/
def RunHalts (s t : State) : Prop :=
  s.status = .running ∧ t.status = .halted ∧ t.ra = resetAllowed t.cause ∧
    ((∃ k : StopKind, s.stopReq = some k ∧ t.cause = stopCause k) ∨
      ∃ i : Instr, s.nextOrder = .ok i ∧ HaltsWith i t.cause)

theorem loadStep_transition {s : State} (hload : s.status = .loading)
    (hne : s.status ≠ s.loadStep.status) : LoadingEnds s s.loadStep := by
  rcases loadStep_cases s with ⟨-, heq⟩ | ⟨hend, heq⟩
  · exact absurd (by rw [heq]) hne
  · exact ⟨hload, hend, by rw [heq]⟩

theorem cycle_transition {s t : State} (hrun : s.status = .running) (h : cycle s = .next t)
    (hne : s.status ≠ t.status) : RunHalts s t := by
  obtain ⟨i, hi, ⟨-, same⟩ | ⟨c, hc, halted⟩⟩ := cycle_orderControl h
  · exact absurd same.status.symm hne
  · obtain ⟨hstatus, rfl, hra, -⟩ := halted
    exact ⟨hrun, hstatus, hra, .inr ⟨i, hi, haltsWith_of_raisedCause hc⟩⟩

theorem engineStep_transition {s t : State} (h : engineStep s = .next t)
    (hne : s.status ≠ t.status) : LoadingEnds s t ∨ RunHalts s t := by
  rcases engineStep_next h with
    ⟨-, rfl⟩ | ⟨-, -, rfl⟩ | ⟨-, hload, rfl⟩ | ⟨-, hrun, ⟨k, hreq, rfl⟩ | ⟨-, hcycle⟩⟩
  · exact absurd rfl hne
  · exact absurd rfl hne
  · exact .inl (loadStep_transition hload hne)
  · exact .inr ⟨hrun, rfl, rfl, .inl ⟨k, hreq, rfl⟩⟩
  · exact .inr (cycle_transition hrun hcycle hne)

/-- A cycle of a halted engine leaves it halted. -/
theorem cycle_halted {s t : State} (hhalted : s.status = .halted) (h : cycle s = .next t) :
    t.status = .halted := by
  obtain ⟨i, -, ⟨-, same⟩ | ⟨c, -, halted⟩⟩ := cycle_orderControl h
  · exact same.status.trans hhalted
  · exact halted.status

theorem State.beginLoading_status (s : State) : s.beginLoading.status = .loading := by
  unfold State.beginLoading
  split <;> rfl

/-- A field that an operation keeps, it keeps also where it is not permitted. -/
theorem field_ite {α : Type} (f : State → α) {c : Prop} [Decidable c] {s u : State}
    (hu : f u = f s) : f (if c then u else s) = f s := by
  split
  · exact hu
  · rfl

/-- What an operation answers has the field as soon as the one next state has. -/
theorem field_of_next {α : Type} (f : State → α) {s t u : State}
    (h : (Host.Outcome.next u : Host.Outcome State Fault Refusal) = .next t) (hu : f u = f s) :
    f t = f s := by
  cases h
  exact hu

theorem hostStep_status {s t : State} (h : hostAct .step s = .next t) : t.status = s.status := by
  by_cases hmay : s.mayResume = true
  · obtain ⟨hhalted, -, -⟩ := s.mayResume_iff.mp hmay
    exact (cycle_halted hhalted (hostAct_step_permitted hmay ▸ h)).trans hhalted.symm
  · exact field_of_next State.status (hostAct_step_refused hmay ▸ h) rfl

theorem hostAct_transition {e : HostEvent} {s t : State} (h : hostAct e s = .next t)
    (hne : s.status ≠ t.status) :
    (e = .start ∧ (s.status = .idle ∨ s.status = .halted) ∧ t.status = .loading) ∨
      LoadingEnds s t ∨ RunHalts s t ∨
      (e = .reset ∧ s.status = .halted ∧ s.ra = true ∧ t.status = .running) := by
  cases e with
  | quiet => exact .inr ((engineStep_transition h hne).imp_right .inl)
  | start =>
    obtain rfl := Host.Outcome.next.inj h
    by_cases hmay : (s.atRest && !s.wait) = true
    · obtain ⟨hrest, -⟩ := s.mayStart_iff.mp hmay
      rw [State.hostStart_permitted hmay]
      exact .inl ⟨rfl, hrest, s.beginLoading_status⟩
    · exact absurd (by rw [State.hostStart_refused hmay]) hne
  | reset =>
    obtain rfl := Host.Outcome.next.inj h
    unfold State.hostReset at hne ⊢
    split
    case isTrue hmay =>
      obtain ⟨hhalted, hra, -⟩ := s.mayResume_iff.mp hmay
      exact .inr (.inr (.inr ⟨rfl, hhalted, hra, rfl⟩))
    case isFalse hmay => exact absurd (by rw [if_neg hmay]) hne
  | step => exact absurd (hostStep_status h).symm hne
  | stop => exact absurd (field_of_next State.status h (field_ite _ rfl)).symm hne
  | kill =>
    exact absurd (field_of_next State.status (s := { s with wait := false }) h
      (field_ite _ rfl)).symm hne
  | replaceTape items => exact absurd (field_of_next State.status h (field_ite _ rfl)).symm hne
  | extendTape items => exact absurd (field_of_next State.status h (field_ite _ rfl)).symm hne
  | configure c => exact absurd (field_of_next State.status h (field_ite _ rfl)).symm hne

/-- Settles O45: each row is the engine's own, a permitted `start` or a permitted `reset`. -/
theorem executionStateTransitions : Obligations.ExecutionStateTransitions := by
  intro s t h hne
  rcases step_cases s with ⟨-, heq⟩ | ⟨e, rest, hevents, heq⟩
  · exact .inr ((engineStep_transition (heq.symm.trans h) hne).imp_right .inl)
  · rw [hevents, List.head?_cons, Option.some.injEq, Option.some.injEq]
    exact hostAct_transition (s := { s with notices := {}, hostEvents := rest })
      (heq.symm.trans h) hne

end Sys2Proof.Machine

/-! The host's operations at rest and while running (`60_exceptions.md` rules R217 to R226), and the
requests that a run keeps until its next boundary. -/

namespace Sys2Proof.Machine

/-! ### The resting engine -/

/-- An open wait ends in one step, whatever the engine is doing (`70_reset_and_hazards.md` rule R255). -/
theorem step_wait {s : State} (hwait : s.wait = true) (hsilent : s.hostEvents = []) :
    step s = .next { s with wait := false, notices := {} } := by
  rw [step_silent hsilent]
  exact if_pos hwait

theorem step_atRest {s : State} (hrest : s.status = .idle ∨ s.status = .halted)
    (hsilent : s.hostEvents = []) : step s = .next { s with wait := false, notices := {} } := by
  cases hwait : s.wait with
  | true => exact step_wait hwait hsilent
  | false => rcases hrest with h | h <;> simp [step_silent hsilent, engineStep, hwait, h]

theorem runSteps_atRest {s : State} (k : Nat) (hrest : s.status = .idle ∨ s.status = .halted)
    (hsilent : s.hostEvents = []) :
    runSteps (k + 1) s = .next { s with wait := false, notices := {} } := by
  induction k generalizing s with
  | zero => exact runSteps_succ 0 (step_atRest hrest hsilent)
  | succ k ih =>
    rw [runSteps_succ (k + 1) (step_atRest hrest hsilent)]
    exact ih (s := { s with wait := false, notices := {} }) hrest hsilent

/-- Settles O46, by induction on the number of steps. -/
theorem restingEngineWaits : Obligations.RestingEngineWaits :=
  ⟨fun _ k hrest hsilent => runSteps_atRest k hrest hsilent,
    fun _ hwait hsilent => step_wait hwait hsilent⟩

/-! ### Reset and single step -/

/-- Settles O54: `reset` is the resumption where it is permitted. -/
theorem resetResumes : Obligations.ResetResumes := by
  intro s rest h
  rw [step_event h]
  exact congrArg Host.Outcome.next (if_congr (State.mayResume_iff _) rfl rfl)

theorem step_singleStep_permitted {s : State} {rest : List HostEvent}
    (h : s.hostEvents = .step :: rest)
    (hmay : s.status = .halted ∧ s.ra = true ∧ s.wait = false) :
    step s = cycle { s with notices := {}, hostEvents := rest } := by
  rw [step_event h]
  exact hostAct_step_permitted ((State.mayResume_iff _).mpr hmay)

theorem step_singleStep_refused {s : State} {rest : List HostEvent}
    (h : s.hostEvents = .step :: rest)
    (hmay : ¬ (s.status = .halted ∧ s.ra = true ∧ s.wait = false)) :
    step s = .next { s with notices := {}, hostEvents := rest } := by
  rw [step_event h]
  exact hostAct_step_refused (mt (State.mayResume_iff _).mp hmay)

theorem cycle_ord {s t : State} (h : cycle s = .next t) : t.ord = s.fetchWord := by
  obtain ⟨-, i, u, -, hexec, rfl⟩ := cycle_next h
  exact (exec_writesOnlyOwn hexec).ord

theorem cycle_ticks {s t : State} (h : cycle s = .next t) : t.ticks = s.ticks + s.nextCost := by
  obtain ⟨-, i, u, -, hexec, rfl⟩ := cycle_next h
  exact congrArg (· + s.nextCost) (exec_writesOnlyOwn hexec).ticks

/-- Settles O55: the order's effect on the control state is exactly that of the halt it raises, and
without one the halted engine's control state stays. -/
theorem singleStepRunsOneOrder : Obligations.SingleStepRunsOneOrder := by
  refine fun s rest h => ⟨fun hmay => ⟨step_singleStep_permitted h hmay, fun htable => ?_⟩,
    step_singleStep_refused h⟩
  obtain ⟨t, ht⟩ := cycle_total (s := { s with notices := {}, hostEvents := rest }) htable
  obtain ⟨i, hi, hcontrol⟩ := cycle_orderControl ht
  have hstep : step s = .next t := (step_singleStep_permitted h hmay).trans ht
  obtain ⟨hhalted, hra, -⟩ := hmay
  have hstatus : t.status = .halted :=
    cycle_halted (s := { s with notices := {}, hostEvents := rest }) hhalted ht
  refine ⟨i, t, hi, hstep, hstatus, (cycle_ord ht :), (cycle_ticks ht :), ?_⟩
  obtain ⟨hnone, same⟩ | ⟨c, hc, halted⟩ := hcontrol
  · have hnone : raisedCause i s.tape = none := hnone
    exact ⟨fun c hc => absurd (hnone.symm.trans hc) nofun,
      fun _ => ⟨same.cause, same.ra.trans hra⟩⟩
  · have hc : raisedCause i s.tape = some c := hc
    refine ⟨fun c' hc' => ?_, fun hnone => absurd (hnone.symm.trans hc) nofun⟩
    obtain rfl : c = c' := Option.some.inj (hc.symm.trans hc')
    exact ⟨halted.cause, halted.ra⟩

/-! ### Start -/

theorem State.beginLoading_clears (s : State) (h : Config.startClears = true) :
    s.beginLoading =
      { s with cause := .none, stopReq := none, status := .loading, bootNext := 0 }.clearTanks :=
  if_pos h

theorem State.beginLoading_keeps (s : State) (h : Config.startClears = false) :
    s.beginLoading = { s with
      cause := .none, stopReq := none, status := .loading, bootNext := 0 } := by
  simp [State.beginLoading, h]

/-- The cleared tanks, word by word (`70_reset_and_hazards.md` rules R241 and R244). -/
theorem State.clearTanks_spec (s : State) :
    s.clearTanks = { s with
      acc := ⟨0#18, 0#18, 0#18, 0#17⟩, mc := ⟨0#18, 0#17⟩, mr := ⟨0#18, 0#17⟩,
      scr := 0#11, ord := 0#17, store := []
      notices := { s.notices with
        accumulator := true, multiplicand := true, multiplier := true, sequenceControl := true,
        order := true, store := List.range 1024 } } := by
  have hlong : LongRegister.ofValue 0#35 = ⟨0#18, 0#17⟩ := by decide
  simp only [State.clearTanks, State.setAcc, State.setMc, State.setMr, State.setScr, State.setOrd,
    Accumulator.ofValue_zero, hlong]

/-- Settles O56, for each value of `START_CLEARS`. -/
theorem startBeginsLoading : Obligations.StartBeginsLoading := by
  intro s rest h
  rw [step_event h]
  refine ⟨fun hmay => ⟨_, congrArg Host.Outcome.next
    (State.hostStart_permitted ((State.mayStart_iff _).mpr hmay)), ?_⟩,
    fun hmay => congrArg Host.Outcome.next
      (State.hostStart_refused (mt (State.mayStart_iff _).mp hmay))⟩
  obtain ⟨-, hwait⟩ := hmay
  cases hclears : Config.startClears with
  | true =>
    rw [State.beginLoading_clears _ hclears, State.clearTanks_spec]
    exact ⟨rfl, rfl, rfl, rfl, rfl, rfl, rfl, rfl, rfl, rfl, hwait, rfl,
      fun _ => ⟨rfl, rfl, rfl, rfl, rfl, rfl⟩, nofun⟩
  | false =>
    rw [State.beginLoading_keeps _ hclears]
    exact ⟨rfl, rfl, rfl, rfl, rfl, rfl, rfl, rfl, rfl, rfl, hwait, rfl,
      nofun, fun _ => ⟨rfl, rfl, rfl, rfl, rfl, rfl⟩⟩

/-! ### Tape and configuration -/

theorem next_atRest {s u v : State} (h : s.status = .idle ∨ s.status = .halted) :
    (Host.Outcome.next (if s.atRest then u else v) : Host.Outcome State Fault Refusal) = .next u :=
  congrArg _ (if_pos (s.atRest_iff.mpr h))

theorem next_not_atRest {s u v : State} (h : ¬ (s.status = .idle ∨ s.status = .halted)) :
    (Host.Outcome.next (if s.atRest then u else v) : Host.Outcome State Fault Refusal) = .next v :=
  congrArg _ (if_neg (mt s.atRest_iff.mp h))

/-- What is left to read of a tape whose first end stands behind `kept`, explicit or not. -/
theorem tapeReadable_eq_kept {tape kept post : List TapeItem} (hkept : .endOfTape ∉ kept)
    (h : tape = kept ∨ tape = kept ++ .endOfTape :: post) : tapeReadable tape = kept := by
  induction kept generalizing tape with
  | nil => obtain rfl | rfl := h <;> rfl
  | cons item kept ih =>
    rw [List.mem_cons, not_or] at hkept
    obtain ⟨hitem, hkept⟩ := hkept
    obtain ⟨tail, rfl, htail⟩ :
        ∃ tail, tape = item :: tail ∧ (tail = kept ∨ tail = kept ++ .endOfTape :: post) := by
      obtain rfl | rfl := h
      · exact ⟨_, rfl, .inl rfl⟩
      · exact ⟨_, rfl, .inr rfl⟩
    cases item with
    | endOfTape => exact absurd rfl hitem
    | code c => exact congrArg (TapeItem.code c :: ·) (ih hkept htail)
    | invalidCharacter line char =>
      exact congrArg (TapeItem.invalidCharacter line char :: ·) (ih hkept htail)

/-- Settles O60: each operation writes its one field, and only at rest. -/
theorem tapeAndConfigurationChanges : Obligations.TapeAndConfigurationChanges := by
  intro s rest items c t rests
  refine ⟨fun h => ?_, fun h => ?_, fun h => ?_⟩
  · exact ⟨fun hrest => (step_event h).trans (next_atRest (s := t) hrest),
      fun hrest => (step_event h).trans (next_not_atRest (s := t) hrest)⟩
  · refine ⟨fun hrest kept post hkept htape => ?_,
      fun hrest => (step_event h).trans (next_not_atRest (s := t) hrest)⟩
    have hreadable : tapeReadable t.tape = kept := tapeReadable_eq_kept hkept htape
    rw [← hreadable]
    exact (step_event h).trans (next_atRest (s := t) hrest)
  · exact ⟨fun hrest => (step_event h).trans (next_atRest (s := t) hrest),
      fun hrest => (step_event h).trans (next_not_atRest (s := t) hrest)⟩

/-! ### Stop and kill -/

theorem step_stop_underWay {s : State} {rest : List HostEvent} (h : s.hostEvents = .stop :: rest)
    (hrun : s.status = .running ∨ s.status = .loading) :
    step s = .next { s with
      stopReq := some (stopAfter s.stopReq), notices := {}, hostEvents := rest } := by
  rw [step_event h]
  exact congrArg Host.Outcome.next (if_pos ((State.underWay_iff _).mpr hrun))

theorem step_kill_underWay {s : State} {rest : List HostEvent} (h : s.hostEvents = .kill :: rest)
    (hrun : s.status = .running ∨ s.status = .loading) :
    step s = .next { s with
      stopReq := some .kill, wait := false, notices := {}, hostEvents := rest } := by
  rw [step_event h]
  exact congrArg Host.Outcome.next (if_pos ((State.underWay_iff _).mpr hrun))

theorem step_stop_atRest {s : State} {rest : List HostEvent} (h : s.hostEvents = .stop :: rest)
    (hrest : s.status = .idle ∨ s.status = .halted) :
    step s = .next { s with notices := {}, hostEvents := rest } := by
  rw [step_event h]
  exact congrArg Host.Outcome.next (if_neg (State.not_underWay_of_atRest hrest))

theorem step_kill_atRest {s : State} {rest : List HostEvent} (h : s.hostEvents = .kill :: rest)
    (hrest : s.status = .idle ∨ s.status = .halted) :
    step s = .next { s with wait := false, notices := {}, hostEvents := rest } := by
  rw [step_event h]
  exact congrArg Host.Outcome.next (if_neg (State.not_underWay_of_atRest hrest))

/-- Only a pending kill keeps a `stop` from making the request a stop (log entry 14). -/
theorem stopAfter_of_ne_kill {req : Option StopKind} (h : req ≠ some .kill) :
    stopAfter req = .stop := by
  obtain _ | _ | _ := req
  · rfl
  · rfl
  · exact absurd rfl h

theorem resetAllowed_stopCause (k : StopKind) : resetAllowed (stopCause k) = true := by
  cases k <;> rfl

theorem stopCause_mem (k : StopKind) : stopCause k ∈ [Cause.operatorStop, .operatorKill] := by
  cases k <;> decide

/-- The halt at a pending request: rule R218. -/
def State.stopped (s : State) (k : StopKind) : State :=
  { s with status := .halted, ra := true, cause := stopCause k, stopReq := none, wait := false,
           notices := {} }

/-- A pending request is honoured at the first boundary. -/
theorem step_honours {s : State} {k : StopKind} (hrun : s.status = .running)
    (hwait : s.wait = false) (hreq : s.stopReq = some k) (hsilent : s.hostEvents = []) :
    step s = .next (s.stopped k) := by
  rw [step_silent hsilent]
  simp [engineStep, hwait, hrun, hreq, State.raiseHalt, State.stopped, resetAllowed_stopCause]

/-- A pacing wait ends before the request is honoured. -/
theorem runSteps_honours {s : State} {k : StopKind} (hrun : s.status = .running)
    (hreq : s.stopReq = some k) (hsilent : s.hostEvents = []) :
    runSteps (if s.wait then 2 else 1) s = .next (s.stopped k) := by
  cases hwait : s.wait with
  | true =>
    exact (runSteps_succ 1 (step_wait hwait hsilent)).trans
      (runSteps_succ 0 (step_honours (s := { s with wait := false, notices := {} }) hrun rfl hreq
        hsilent))
  | false => exact runSteps_succ 0 (step_honours hrun hwait hreq hsilent)

theorem runSteps_stop {s : State} (h : s.hostEvents = [.stop]) (hrun : s.status = .running) :
    runSteps (if s.wait then 3 else 2) s =
      .next { s.stopped (stopAfter s.stopReq) with hostEvents := [] } := by
  have hsteps : (if s.wait then 3 else 2) = (if s.wait then 2 else 1) + 1 := by split <;> rfl
  rw [hsteps, runSteps_succ _ (step_stop_underWay h (.inl hrun))]
  exact runSteps_honours (s := { s with
    stopReq := some (stopAfter s.stopReq), notices := {}, hostEvents := [] }) hrun rfl rfl

theorem runSteps_kill {s : State} (h : s.hostEvents = [.kill]) (hrun : s.status = .running) :
    runSteps 2 s = .next { s.stopped .kill with hostEvents := [] } := by
  rw [runSteps_succ 1 (step_kill_underWay h (.inl hrun))]
  exact runSteps_honours (s := { s with
    stopReq := some .kill, wait := false, notices := {}, hostEvents := [] }) hrun rfl rfl

/-- Settles O52: the request is set in one step, the wait ends in one if a stop left it open, and the
halt is one. -/
theorem stopAndKillHalt : Obligations.StopAndKillHalt := by
  constructor
  case left =>
    intro s hrun halted
    refine ⟨fun hreq h => ?_, fun _ h => ?_, fun h => runSteps_kill h hrun⟩
    · rw [runSteps_stop h hrun, stopAfter_of_ne_kill hreq]
      rfl
    · exact ⟨_, stopCause_mem (stopAfter s.stopReq), runSteps_stop h hrun⟩
  case right =>
    exact fun s rest hrest => ⟨fun h => step_stop_atRest h hrest, fun h => step_kill_atRest h hrest⟩

/-! ### A request while the loader runs -/

theorem step_loading {s : State} (hload : s.status = .loading) (hwait : s.wait = false)
    (hsilent : s.hostEvents = []) : step s = .next { s with notices := {} }.loadStep := by
  rw [step_silent hsilent]
  simp [engineStep, hwait, hload]

/-- The state in which a run begins after the loader has left a store: everything but the store, `SCR`,
`TICKS` and the loader's position is as it was while `s` loaded. -/
def State.launched (s : State) (store : Store) : State :=
  { s with
    store := store, scr := 0#11, status := .running, bootNext := s.ordersLength
    ticks := s.ticks + 1000 * (s.ordersLength - s.bootNext)
    notices := { sequenceControl := true } }

theorem runSteps_loading {s : State} {left : Nat} (hload : s.status = .loading)
    (hwait : s.wait = false) (hsilent : s.hostEvents = [])
    (hleft : s.bootNext + left = s.ordersLength) :
    ∃ store, runSteps (left + 1) s = .next (s.launched store) := by
  induction left generalizing s with
  | zero =>
    obtain ⟨hlt, -⟩ | ⟨-, heq⟩ := loadStep_cases { s with notices := {} }
    · exact absurd hlt (not_lt.mpr hleft.ge)
    · have hstep := step_loading hload hwait hsilent
      rw [heq] at hstep
      refine ⟨s.store, (runSteps_succ 0 hstep).trans ?_⟩
      simp [State.launched, ← hleft]
  | succ left ih =>
    obtain ⟨-, heq⟩ | ⟨hle, -⟩ := loadStep_cases { s with notices := {} }
    · have hstep := step_loading hload hwait hsilent
      rw [heq] at hstep
      have hnext : s.bootNext + 1 + left = s.ordersLength := by omega
      have hticks : s.ticks + 1000 + 1000 * (s.ordersLength - (s.bootNext + 1)) =
          s.ticks + 1000 * (s.ordersLength - s.bootNext) := by omega
      obtain ⟨store, hrun⟩ := ih (s := { s with
        store := _, ticks := s.ticks + 1000, bootNext := s.bootNext + 1, notices := _ })
        hload hwait hsilent hnext
      refine ⟨store, (runSteps_succ _ hstep).trans (hrun.trans ?_)⟩
      unfold State.launched
      rw [← hticks]
      rfl
    · have hle : s.ordersLength ≤ s.bootNext := hle
      omega

/-- What a request that was pending or made while `s` loaded leaves: the halt with its cause at the
first boundary, `SCR` still at the first order. -/
def HonouredAfterLoading (s : State) (k : StopKind) (t : State) : Prop :=
  t.status = .halted ∧ t.ra = true ∧ t.cause = stopCause k ∧ t.stopReq = none ∧ t.scr = 0#11 ∧
    t.ord = s.ord ∧ t.acc = s.acc ∧ t.ticks = s.ticks + 1000 * (s.ordersLength - s.bootNext)

/-- The loader goes on to the end with a request pending, and the next step honours it. -/
theorem runSteps_loading_honours {s : State} {k : StopKind} (hload : s.status = .loading)
    (hwait : s.wait = false) (hsilent : s.hostEvents = []) (hrange : s.bootNext ≤ s.ordersLength)
    (hreq : s.stopReq = some k) :
    ∃ t, runSteps (s.ordersLength - s.bootNext + 2) s = .next t ∧ HonouredAfterLoading s k t := by
  obtain ⟨store, hrun⟩ :=
    runSteps_loading hload hwait hsilent (Nat.add_sub_of_le hrange)
  have hhonour : step (s.launched store) = .next ((s.launched store).stopped k) :=
    step_honours rfl hwait hreq hsilent
  refine ⟨(s.launched store).stopped k, ?_, rfl, rfl, rfl, rfl, rfl, rfl, rfl, rfl⟩
  exact (runSteps_add 1 hrun).trans (runSteps_succ 0 hhonour)

/-- The same for a request whose own step leaves `s` loading with it and nothing else changed. -/
theorem runSteps_request_honours {s : State} {k : StopKind} (hload : s.status = .loading)
    (hwait : s.wait = false) (hrange : s.bootNext ≤ s.ordersLength)
    (hstep : step s = .next { s with stopReq := some k, notices := {}, hostEvents := [] }) :
    ∃ t, runSteps (s.ordersLength - s.bootNext + 3) s = .next t ∧ HonouredAfterLoading s k t := by
  obtain ⟨t, hrun, hhonoured⟩ := runSteps_loading_honours
    (s := { s with stopReq := some k, notices := {}, hostEvents := [] }) hload hwait rfl hrange rfl
  exact ⟨t, (runSteps_succ _ hstep).trans hrun, hhonoured⟩

/-- A kill while loading finds no wait to end. -/
theorem step_kill_loading {s : State} {rest : List HostEvent} (h : s.hostEvents = .kill :: rest)
    (hload : s.status = .loading) (hwait : s.wait = false) :
    step s = .next { s with stopReq := some .kill, notices := {}, hostEvents := rest } := by
  rw [step_kill_underWay h (.inr hload), ← hwait]

/-- Settles O58: each request's own step keeps it, and the loader's run then ends in its halt. -/
theorem requestDuringLoadingIsKept : Obligations.RequestDuringLoadingIsKept := by
  intro s hload hwait hrange kept honoured left
  have honours {k : StopKind} (hstep : step s = .next (kept k)) :
      step s = .next (kept k) ∧ ∃ t, runSteps (left + 3) s = .next t ∧ honoured k t :=
    ⟨hstep, runSteps_request_honours hload hwait hrange hstep⟩
  refine ⟨fun k h hreq => runSteps_loading_honours hload hwait h hrange hreq,
    fun h hreq => honours ?_, fun h _ => ⟨_, honours (step_stop_underWay h (.inr hload))⟩,
    fun h => honours (step_kill_loading h hload hwait)⟩
  rw [step_stop_underWay h (.inr hload), stopAfter_of_ne_kill hreq]

end Sys2Proof.Machine

/-! The notifications (`60_exceptions.md` rule R227): what each state operation, each order, the cycle,
the loader and the host change is noted in the record of notices (log entries 11 and 18). -/

namespace Sys2Proof.Machine

/-! ### Changes and notes -/

/-- A change of a register from `old` to `new` is noted in `after`, where what was noted before still
stands. -/
structure Noted {α : Type} (old new : α) (before after : Bool) : Prop where
  change : new ≠ old → after = true
  keep : before = true → after = true

namespace Noted

variable {α : Type} {a b c : α} {k m n : Bool}

theorem same : Noted a a n n := ⟨fun h => absurd rfl h, id⟩

theorem set : Noted a b n true := ⟨fun _ => rfl, fun _ => rfl⟩

theorem trans (h₁ : Noted a b k m) (h₂ : Noted b c m n) : Noted a c k n where
  change hne := by
    by_cases hb : b = a
    · exact h₂.change (hb ▸ hne)
    · exact h₂.keep (h₁.change hb)
  keep hk := h₂.keep (h₁.keep hk)

end Noted

/-- The same for the store: every changed word is noted by its index. -/
structure StoreNoted (old new : Store) (before after : List Nat) : Prop where
  change : ∀ k : Nat, k < 1024 → new.read k ≠ old.read k → k ∈ after
  keep : before ⊆ after

theorem mem_noteIndex (j k : Nat) (ns : List Nat) : j ∈ noteIndex k ns ↔ j = k ∨ j ∈ ns := by
  induction ns with
  | nil => simp [noteIndex]
  | cons i rest ih =>
    unfold noteIndex
    split
    case isTrue => exact List.mem_cons
    case isFalse =>
      split
      case isTrue heq => simp [heq]
      case isFalse => simp [ih, or_left_comm]

namespace StoreNoted

variable {m₁ m₂ m₃ : Store} {n₁ n₂ n₃ : List Nat}

theorem same : StoreNoted m₁ m₁ n₁ n₁ := ⟨fun _ _ h => absurd rfl h, List.Subset.refl _⟩

theorem write (k : Nat) (v : Word) : StoreNoted m₁ (m₁.write k v) n₁ (noteIndex k n₁) where
  change j _ hne := by
    have hjk : j = k := Decidable.byContradiction fun h => hne (Store.read_write_other m₁ v h)
    exact (mem_noteIndex j k n₁).mpr (.inl hjk)
  keep j hj := (mem_noteIndex j k n₁).mpr (.inr hj)

/-- Where nothing is noted yet, the note of every index covers every change. -/
theorem all : StoreNoted m₁ m₂ [] (List.range 1024) :=
  ⟨fun _ hk _ => List.mem_range.mpr hk, List.nil_subset _⟩

theorem trans (h₁ : StoreNoted m₁ m₂ n₁ n₂) (h₂ : StoreNoted m₂ m₃ n₂ n₃) :
    StoreNoted m₁ m₃ n₁ n₃ where
  change k hk hne := by
    by_cases hsame : m₂.read k = m₁.read k
    · exact h₂.change k hk (hsame ▸ hne)
    · exact h₂.keep (h₁.change k hk hsame)
  keep := List.Subset.trans h₁.keep h₂.keep

end StoreNoted

/-- From `s` to `t` every change of a register or of a store word is noted. -/
structure ChangesNoted (s t : State) : Prop where
  acc : Noted s.acc t.acc s.notices.accumulator t.notices.accumulator
  mc : Noted s.mc t.mc s.notices.multiplicand t.notices.multiplicand
  mr : Noted s.mr t.mr s.notices.multiplier t.notices.multiplier
  scr : Noted s.scr t.scr s.notices.sequenceControl t.notices.sequenceControl
  ord : Noted s.ord t.ord s.notices.order t.notices.order
  store : StoreNoted s.store t.store s.notices.store t.notices.store

namespace ChangesNoted

variable {s t u : State}

theorem trans (h₁ : ChangesNoted s t) (h₂ : ChangesNoted t u) : ChangesNoted s u :=
  ⟨h₁.acc.trans h₂.acc, h₁.mc.trans h₂.mc, h₁.mr.trans h₂.mr, h₁.scr.trans h₂.scr,
    h₁.ord.trans h₂.ord, h₁.store.trans h₂.store⟩

theorem of_next (hu : ChangesNoted s u)
    (h : (Host.Outcome.next u : Host.Outcome State Fault Refusal) = .next t) :
    ChangesNoted s t := by
  cases h
  exact hu

/-! ### One rule per state operation -/

theorem refl (s : State) : ChangesNoted s s := ⟨.same, .same, .same, .same, .same, .same⟩

theorem setAcc (v : AccWord) : ChangesNoted s (s.setAcc v) :=
  ⟨.set, .same, .same, .same, .same, .same⟩

theorem setProperWords (lo : SlotWord) (hi : Word) : ChangesNoted s (s.setProperWords lo hi) :=
  ⟨.set, .same, .same, .same, .same, .same⟩

theorem addP (v : LongWord) : ChangesNoted s (s.addP v) := setProperWords _ _

theorem subP (v : LongWord) : ChangesNoted s (s.subP v) := setProperWords _ _

theorem setMc (v : LongWord) : ChangesNoted s (s.setMc v) :=
  ⟨.same, .set, .same, .same, .same, .same⟩

theorem setMr (v : LongWord) : ChangesNoted s (s.setMr v) :=
  ⟨.same, .same, .set, .same, .same, .same⟩

theorem multiply (sub : Bool) : ChangesNoted s (s.multiply sub) := (setAcc _).trans (setMc _)

theorem setScr (a : Addr) : ChangesNoted s (s.setScr a) :=
  ⟨.same, .same, .same, .set, .same, .same⟩

theorem setOrd (w : Word) : ChangesNoted s (s.setOrd w) :=
  ⟨.same, .same, .same, .same, .set, .same⟩

theorem memWrite {w : Nat} (a : Addr) (v : BitVec w) : ChangesNoted s (s.memWrite a v) :=
  ⟨.same, .same, .same, .same, .same, .write _ _⟩

theorem storeProper (n : Addr) (l : Bool) : ChangesNoted s (s.storeProper n l) := by
  cases l with
  | false => exact memWrite _ _
  | true => exact (memWrite _ _).trans (memWrite _ _)

theorem emit_lp (c : Code) : ChangesNoted s { s.emit c with lp := c } :=
  ⟨.same, .same, .same, .same, .same, .same⟩

theorem setTape (tape : List TapeItem) : ChangesNoted s { s with tape := tape } :=
  ⟨.same, .same, .same, .same, .same, .same⟩

theorem reportTape (report : Option (Nat × Nat)) :
    ChangesNoted s { s with notices := { s.notices with tapeReport := report } } :=
  ⟨.same, .same, .same, .same, .same, .same⟩

theorem requestIndicator (stopIndicator bell : Bool) :
    ChangesNoted s { s with
      notices := { s.notices with stopIndicator := stopIndicator, bell := bell } } :=
  ⟨.same, .same, .same, .same, .same, .same⟩

theorem raiseHalt (c : Cause) : ChangesNoted s (s.raiseHalt c) :=
  ⟨.same, .same, .same, .same, .same, .same⟩

theorem failRead (c : Cause) : ChangesNoted s (s.failRead c) := (setScr _).trans (raiseHalt _)

theorem fetch (s : State) : ChangesNoted s s.fetch := (setScr _).trans (setOrd _)

theorem charge (k : Nat) : ChangesNoted s (s.charge k) :=
  ⟨.same, .same, .same, .same, .same, .same⟩

end ChangesNoted

/-! ### Orders and the cycle -/

theorem execRead_changesNoted {s t : State} {n : Addr} {l : Bool}
    (h : execRead n l s = .next t) : ChangesNoted s t := by
  unfold execRead at h
  split at h
  case h_1 => exact .of_next ((ChangesNoted.setTape _).trans (.memWrite _ _)) h
  case h_2 => exact .of_next ((ChangesNoted.setTape _).trans (.failRead _)) h
  case h_3 =>
    exact .of_next (((ChangesNoted.setTape _).trans (.reportTape _)).trans (.failRead _)) h

theorem execBranchNonneg_changesNoted {s t : State} {n : Addr}
    (h : execBranchNonneg n s = .next t) : ChangesNoted s t := by
  refine .of_next ?_ h
  split
  · exact .refl s
  · exact .setScr n

theorem execBranchNeg_changesNoted {s t : State} {n : Addr}
    (h : execBranchNeg n s = .next t) : ChangesNoted s t := by
  refine .of_next ?_ h
  split
  · exact .setScr n
  · exact .refl s

theorem exec_changesNoted {i : Instr} {s t : State} (h : exec i s = .next t) :
    ChangesNoted s t := by
  cases i with
  | add n l => exact .of_next ((ChangesNoted.setMc _).trans (.addP _)) h
  | subtract n l => exact .of_next ((ChangesNoted.setMc _).trans (.subP _)) h
  | loadMultiplier n l => exact .of_next (.setMr _) h
  | multiplyAdd n l => exact .of_next ((ChangesNoted.setMc _).trans (.multiply _)) h
  | multiplySubtract n l => exact .of_next ((ChangesNoted.setMc _).trans (.multiply _)) h
  | transfer n l => exact .of_next ((ChangesNoted.storeProper n l).trans (.setAcc _)) h
  | untransfer n l => exact .of_next (.storeProper n l) h
  | collate n l => exact .of_next (.addP _) h
  | rightShift n l => exact .of_next (.setAcc _) h
  | leftShift n l => exact .of_next (.setAcc _) h
  | branchNonneg n l => exact execBranchNonneg_changesNoted h
  | branchNeg n l => exact execBranchNeg_changesNoted h
  | read n l => exact execRead_changesNoted h
  | print n l => exact .of_next (.emit_lp _) h
  | printCheck n l => exact .of_next (.memWrite _ _) h
  | noop n l => exact .of_next (.refl s) h
  | roundOff n l => exact .of_next (.setAcc _) h
  | halt n l => exact .of_next ((ChangesNoted.requestIndicator _ _).trans (.raiseHalt _)) h
  | invalid f n l => exact .of_next (.raiseHalt _) h

/-- The tick count is notified exactly if it grew by or past a multiple of the period, which stays. -/
structure TicksNoted (s t : State) : Prop where
  tickPeriod : t.tickPeriod = s.tickPeriod
  tickCount : t.notices.tickCount = tickNotice s.tickPeriod s.ticks t.ticks

/-- What a step that began with no notices has noted. -/
structure AllNoted (s t : State) : Prop where
  changes : ChangesNoted s t
  ticks : TicksNoted s t

/-- The charge overwrites whatever stood as the tick count's notice, and orders leave `TICKS` and the
period alone. -/
theorem cycle_allNoted {s t : State} (h : cycle s = .next t) : AllNoted s t := by
  obtain ⟨-, i, u, -, hexec, rfl⟩ := cycle_next h
  have own := exec_writesOnlyOwn hexec
  refine ⟨((ChangesNoted.fetch s).trans (exec_changesNoted hexec)).trans (.charge _),
    own.tickPeriod, ?_⟩
  have hperiod : u.tickPeriod = s.tickPeriod := own.tickPeriod
  have hticks : u.ticks = s.ticks := own.ticks
  rw [State.charge_notices, State.charge_ticks, hperiod, hticks]

/-! ### The engine and the host -/

/-- What notifications are about, and the notices. -/
def State.notified (s : State) :
    Accumulator × LongRegister × LongRegister × Addr × Word × Store × Nat × Nat × Notices :=
  (s.acc, s.mc, s.mr, s.scr, s.ord, s.store, s.ticks, s.tickPeriod, s.notices)

@[simp] theorem tickNotice_same (period ticks : Nat) : tickNotice period ticks ticks = none :=
  if_pos rfl

namespace AllNoted

variable {s t : State}

/-- An action that changes nothing to be notified has nothing to note. -/
theorem of_notified_eq (hnew : s.notices = {}) (h : t.notified = s.notified) : AllNoted s t := by
  simp only [State.notified, Prod.mk.injEq] at h
  obtain ⟨hacc, hmc, hmr, hscr, hord, hstore, hticks, hperiod, hnotices⟩ := h
  constructor
  · constructor <;> simp only [*] <;> exact .same
  · exact ⟨hperiod, by rw [hticks, tickNotice_same, hnotices, hnew]⟩

/-- A word loaded is a store write and 1000 ticks. -/
theorem loadStep (hnew : s.notices = {}) : AllNoted s s.loadStep := by
  rcases loadStep_cases s with ⟨-, heq⟩ | ⟨-, heq⟩
  · rw [heq]
    exact ⟨⟨.same, .same, .same, .same, .same, .write _ _⟩, rfl, rfl⟩
  · rw [heq]
    exact ⟨⟨.same, .same, .same, .set, .same, .same⟩, rfl, by rw [tickNotice_same, hnew]⟩

theorem beginLoading (hnew : s.notices = {}) : AllNoted s s.beginLoading := by
  cases hclears : Config.startClears with
  | true =>
    rw [State.beginLoading_clears s hclears, State.clearTanks_spec]
    refine ⟨⟨.set, .set, .set, .set, .set, ?_⟩, rfl, by rw [tickNotice_same, hnew]⟩
    dsimp only
    rw [hnew]
    exact .all
  | false =>
    rw [State.beginLoading_keeps s hclears]
    exact .of_notified_eq hnew rfl

theorem engineStep (hnew : s.notices = {}) (h : engineStep s = .next t) : AllNoted s t := by
  rcases engineStep_next h with
    ⟨-, rfl⟩ | ⟨-, -, rfl⟩ | ⟨-, -, rfl⟩ | ⟨-, -, ⟨k, -, rfl⟩ | ⟨-, hcycle⟩⟩
  · exact .of_notified_eq hnew rfl
  · exact .of_notified_eq hnew rfl
  · exact .loadStep hnew
  · exact .of_notified_eq hnew rfl
  · exact cycle_allNoted hcycle

theorem hostStart (hnew : s.notices = {}) : AllNoted s s.hostStart := by
  by_cases h : (s.atRest && !s.wait) = true
  · rw [State.hostStart_permitted h]
    exact .beginLoading hnew
  · rw [State.hostStart_refused h]
    exact .of_notified_eq hnew rfl

theorem hostStep (hnew : s.notices = {}) (h : Machine.hostAct .step s = .next t) :
    AllNoted s t := by
  by_cases hmay : s.mayResume = true
  · exact cycle_allNoted (hostAct_step_permitted hmay ▸ h)
  · exact .of_notified_eq hnew
      (field_of_next State.notified (hostAct_step_refused hmay ▸ h) rfl)

/-- An operation that changes nothing to be notified, or is not permitted. -/
theorem of_ite {c : Prop} [Decidable c] {u : State} (hnew : s.notices = {})
    (h : (Host.Outcome.next (if c then u else s) : Host.Outcome State Fault Refusal) = .next t)
    (hu : u.notified = s.notified) : AllNoted s t :=
  of_notified_eq hnew (field_of_next State.notified h (field_ite _ hu))

theorem hostAct {e : HostEvent} (hnew : s.notices = {}) (h : hostAct e s = .next t) :
    AllNoted s t := by
  cases e with
  | quiet => exact .engineStep hnew h
  | start =>
    obtain rfl := Host.Outcome.next.inj h
    exact .hostStart hnew
  | step => exact .hostStep hnew h
  | stop => exact .of_ite hnew h rfl
  | reset => exact .of_ite hnew h rfl
  | kill =>
    obtain rfl := Host.Outcome.next.inj h
    exact .of_notified_eq hnew (field_ite State.notified (s := { s with wait := false }) rfl)
  | replaceTape items => exact .of_ite hnew h rfl
  | extendTape items => exact .of_ite hnew h rfl
  | configure c => exact .of_ite hnew h rfl

end AllNoted

/-- The events left to the host are in no clause of `AllNoted`. -/
theorem step_allNoted {s t : State} (h : step s = .next t) :
    ∃ events, AllNoted { s with notices := {}, hostEvents := events } t := by
  rcases step_cases s with ⟨-, heq⟩ | ⟨e, rest, -, heq⟩
  · exact ⟨s.hostEvents, .engineStep rfl (heq.symm.trans h)⟩
  · exact ⟨rest, .hostAct rfl (heq.symm.trans h)⟩

/-- Settles O51: a step begins with no notices, and whatever it does notes what it changes. -/
theorem changesAreNotified : Obligations.ChangesAreNotified := by
  intro s t h
  obtain ⟨_, ⟨hacc, hmc, hmr, hscr, hord, hstore⟩, hperiod, hcount⟩ := step_allNoted h
  exact ⟨hacc.change, hmc.change, hmr.change, hscr.change, hord.change, hstore.change, hperiod,
    hcount⟩

end Sys2Proof.Machine

/-! Time (`70_reset_and_hazards.md` rules R250 to R253): what an order costs, which steps add to `TICKS`,
and that neither `TICKS` nor real-time pacing is an input of a cycle. -/

namespace Sys2Proof.Machine

/-! ### The cost of an order -/

theorem tickCost_code {fc : FnCode} (h : fc.wf = true) (op : Operation) :
    tickCost fc (fc.code op) =
      if op = .multiplyAdd ∨ op = .multiplySubtract then 60
      else if op = .read then 215 else if op = .print then 1515 else 15 := by
  rw [tickCost, dispatch_code h]
  cases op <;> rfl

theorem tickCost_invalid {fc : FnCode} {f : Code} (h : ∀ op : Operation, fc.code op ≠ f) :
    tickCost fc f = 15 :=
  tickCost_of_not_costly (by rw [(dispatch_eq_none_iff fc f).mpr h]; decide)

/-- Settles O7: the cost is looked up by the dispatch entry, and every cycle answers and charges it. -/
theorem tickCostTable : Obligations.TickCostTable := by
  refine ⟨fun fc h => ⟨tickCost_code h, fun f hf => tickCost_invalid hf⟩, fun s h => ?_⟩
  obtain ⟨t, ht⟩ := cycle_total h
  exact ⟨t, ht, cycle_ticks ht⟩

/-! ### The steps that add to `TICKS` -/

theorem loadStep_ticks (s : State) :
    s.loadStep.ticks = s.ticks + if s.bootNext < s.ordersLength then 1000 else 0 := by
  obtain ⟨hlt, heq⟩ | ⟨hle, heq⟩ := loadStep_cases s
  · rw [heq, if_pos hlt]
  · rw [heq, if_neg (not_lt.mpr hle), Nat.add_zero]

/-- A word is loaded by the engine left to itself. -/
theorem loadsWord_iff (s : State) :
    loadsWord s = true ↔ hostQuiet s = true ∧ s.wait = false ∧ s.status = .loading ∧
      s.bootNext < s.ordersLength := by
  simp [loadsWord, and_assoc]

theorem step_ticks_of_loadsWord {s t : State} (hloads : loadsWord s = true)
    (h : step s = .next t) : t.ticks = s.ticks + 1000 := by
  obtain ⟨hquiet, hwait, hload, hlt⟩ := (loadsWord_iff s).mp hloads
  have hengine : engineStep s.stepBase = .next s.stepBase.loadStep := by
    simp [engineStep, State.stepBase, hwait, hload]
  rw [step_of_hostQuiet hquiet, hengine] at h
  obtain rfl := Host.Outcome.next.inj h
  exact (loadStep_ticks s.stepBase).trans (congrArg _ (if_pos hlt))

/-- The engine left to itself adds no ticks where it neither runs a cycle nor loads a word. -/
theorem engineStep_keepsTicks {s t : State} (h : engineStep s = .next t)
    (hcycles : ¬ (s.wait = false ∧ s.status = .running ∧ s.stopReq = none))
    (hloads : ¬ (s.wait = false ∧ s.status = .loading ∧ s.bootNext < s.ordersLength)) :
    t.ticks = s.ticks := by
  rcases engineStep_next h with
    ⟨-, rfl⟩ | ⟨-, -, rfl⟩ | ⟨hwait, hload, rfl⟩ | ⟨hwait, hrun, ⟨k, -, rfl⟩ | ⟨hreq, -⟩⟩
  · rfl
  · rfl
  · rw [loadStep_ticks, if_neg fun hlt => hloads ⟨hwait, hload, hlt⟩, Nat.add_zero]
  · rfl
  · exact absurd ⟨hwait, hrun, hreq⟩ hcycles

theorem beginLoading_ticks (s : State) : s.beginLoading.ticks = s.ticks := by
  unfold State.beginLoading
  split <;> rfl

/-- Of the host's operations only a permitted single step adds ticks. -/
theorem hostAct_keepsTicks {e : HostEvent} {s t : State} (hquiet : e ≠ .quiet)
    (hstep : e = .step → ¬ s.mayResume = true) (h : hostAct e s = .next t) :
    t.ticks = s.ticks := by
  cases e with
  | quiet => exact absurd rfl hquiet
  | step => exact field_of_next State.ticks (hostAct_step_refused (hstep rfl) ▸ h) rfl
  | start => exact field_of_next State.ticks h (field_ite _ (beginLoading_ticks s))
  | kill =>
    exact field_of_next State.ticks (s := { s with wait := false }) h (field_ite _ rfl)
  | _ => exact field_of_next State.ticks h (field_ite _ rfl)

/-- A host that does not leave the step to the engine has an operation for it, and a permitted single
step is a cycle. -/
theorem step_of_not_hostQuiet {s : State} (h : ¬ hostQuiet s = true) :
    ∃ e, e ≠ .quiet ∧ step s = hostAct e s.stepBase ∧
      (e = .step → s.mayResume = true → runsCycle s = true) := by
  rcases step_cases s with ⟨hnil, -⟩ | ⟨e, rest, hevents, heq⟩
  · simp [hostQuiet, hnil] at h
  · refine ⟨e, ?_, ?_, ?_⟩
    · rintro rfl
      simp [hostQuiet, hevents] at h
    · rw [heq, State.stepBase, hevents, List.tail_cons]
    · rintro rfl hmay
      simp [runsCycle, hostAsksStep, hevents, hmay]

theorem step_keepsTicks {s t : State} (hcycle : ¬ runsCycle s = true)
    (hload : ¬ loadsWord s = true) (h : step s = .next t) : t.ticks = s.ticks := by
  by_cases hquiet : hostQuiet s = true
  · rw [step_of_hostQuiet hquiet] at h
    exact engineStep_keepsTicks (s := s.stepBase) h
      (mt (runsCycle_of_hostQuiet hquiet).mpr hcycle)
      fun hloads => hload ((loadsWord_iff s).mpr ⟨hquiet, hloads⟩)
  · obtain ⟨e, hne, heq, hresume⟩ := step_of_not_hostQuiet hquiet
    exact hostAct_keepsTicks (s := s.stepBase) hne (fun he hmay => hcycle (hresume he hmay))
      (heq.symm.trans h)

/-- Settles O47: a step that runs a cycle is that cycle, one that loads a word is the loader's, and no
other action writes `TICKS`. -/
theorem ticksOnlyFromCyclesAndLoading : Obligations.TicksOnlyFromCyclesAndLoading := by
  intro s t h
  by_cases hcycle : runsCycle s = true
  · rw [if_pos hcycle]
    exact cycle_ticks (s := s.stepBase) ((step_of_runsCycle hcycle).symm.trans h)
  · rw [if_neg hcycle]
    by_cases hload : loadsWord s = true
    · rw [if_pos hload]
      exact step_ticks_of_loadsWord hload h
    · rw [if_neg hload]
      exact step_keepsTicks hcycle hload h

/-! ### Time is no input of a cycle -/

/-- `s` with another tick count, another pacing wait and other real-time pacing. -/
def State.retimed (s : State) (k : Nat) (w r : Bool) : State :=
  { s with ticks := k, wait := w, config := { s.config with realtime := r } }

/-- What `f` answers does not depend on `TICKS`, `WAIT` and `REALTIME`, and `f` leaves them alone: an
answer for `s` is also the answer for `s` with any others, with those in it. -/
def IgnoresTime (f : State → Host.Outcome State Fault Refusal) : Prop :=
  ∀ (s t : State) (k : Nat) (w r : Bool), f s = .next t →
    f (s.retimed k w r) = .next (t.retimed k w r)

/-- The answers `u'` and `u` of two runs that differ in time only. -/
theorem next_retimed {u u' t : State} {k : Nat} {w r : Bool}
    (h : (Host.Outcome.next u : Host.Outcome State Fault Refusal) = .next t)
    (hu : u' = u.retimed k w r) :
    (Host.Outcome.next u' : Host.Outcome State Fault Refusal) = .next (t.retimed k w r) := by
  cases h
  exact congrArg _ hu

theorem ite_retimed {c : Prop} [Decidable c] (s t : State) (k : Nat) (w r : Bool) :
    (if c then s.retimed k w r else t.retimed k w r) = (if c then s else t).retimed k w r :=
  (apply_ite (State.retimed · k w r) c s t).symm

/-- Stated for any value, as `rfl` would unfold the half unit of Round-off. -/
theorem setAcc_retimed (s : State) (v : AccWord) (k : Nat) (w r : Bool) :
    (s.retimed k w r).setAcc v = (s.setAcc v).retimed k w r := rfl

theorem storeProper_retimed (s : State) (k : Nat) (w r : Bool) (n : Addr) (l : Bool) :
    (s.retimed k w r).storeProper n l = (s.storeProper n l).retimed k w r := by
  cases l <;> rfl

theorem exec_read_ignoresTime (n : Addr) (l : Bool) : IgnoresTime (exec (.read n l)) := by
  intro s t k w r h
  obtain ⟨c, rest, htape, -⟩ | ⟨line, char, rest, htape, -⟩ | ⟨hend, -⟩ := tapeNext_cases s.tape
  · rw [exec_read_code n l htape] at h
    rw [exec_read_code (s := s.retimed k w r) n l htape]
    exact next_retimed h rfl
  · rw [exec_read_invalidCharacter n l htape] at h
    rw [exec_read_invalidCharacter (s := s.retimed k w r) n l htape]
    exact next_retimed h rfl
  · have hend : s.tape = [] ∨ s.tape.head? = some .endOfTape :=
      hend.imp_right fun ⟨rest, htape⟩ => by rw [htape]; rfl
    rw [exec_read_end n l hend] at h
    rw [exec_read_end (s := s.retimed k w r) n l hend]
    exact next_retimed h rfl

/-- No order reads or writes `TICKS`, `WAIT` or `REALTIME`. -/
theorem exec_ignoresTime (i : Instr) : IgnoresTime (exec i) := by
  intro s t k w r h
  cases i with
  | read n l => exact exec_read_ignoresTime n l s t k w r h
  | transfer n l =>
    exact next_retimed h (congrArg (State.setAcc · 0#71) (storeProper_retimed s k w r n l))
  | untransfer n l => exact next_retimed h (storeProper_retimed s k w r n l)
  | branchNonneg n l => exact next_retimed h (ite_retimed s (s.setScr n) k w r)
  | branchNeg n l => exact next_retimed h (ite_retimed (s.setScr n) s k w r)
  | roundOff n l => exact next_retimed h (setAcc_retimed s _ k w r)
  | _ => exact next_retimed h rfl

/-- Settles O48: the order ignores time, and the charge alone writes `TICKS`, `WAIT` and the tick count's
notice, from the values that it finds. -/
theorem timingIsNoInput : Obligations.TimingIsNoInput := by
  intro s t k w r h cost
  obtain ⟨-, i, u, horder, hexec, rfl⟩ := cycle_next h
  have hperiod : (u.charge s.nextCost).tickPeriod = s.tickPeriod :=
    (exec_writesOnlyOwn hexec).tickPeriod
  have hcycle : cycle (s.retimed k w r) = .next ((u.retimed k w r).charge cost) :=
    cycle_of_exec (s := s.retimed k w r) horder (exec_ignoresTime i s.fetch u k w r hexec)
  exact hcycle.trans (by rw [← hperiod]; rfl)

end Sys2Proof.Machine

/-! The start of the machine (`70_reset_and_hazards.md` rules R241 to R247): the store that the loader
leaves, and the launch of the initial orders from power-on. -/

namespace Sys2Proof.Machine

/-! ### The initial orders -/

theorem State.ordersLength_le (s : State) : s.ordersLength ≤ 1024 :=
  Nat.le_of_lt_succ (Config.initialOrdersLength s.config.bootRev).isLt

theorem length_initialOrders (rev : BootRev) :
    (initialOrders rev).length = (Config.initialOrdersLength rev).val := by
  simp [initialOrders]

theorem getD_initialOrders {rev : BootRev} {k : Nat}
    (h : k < (Config.initialOrdersLength rev).val) :
    (initialOrders rev).getD k 0#17 = Config.initialOrderWord rev k := by
  simp [initialOrders, h]

/-- Beyond the initial orders there is nothing but zero. -/
theorem getD_initialOrders_beyond {rev : BootRev} {k : Nat}
    (h : (Config.initialOrdersLength rev).val ≤ k) : (initialOrders rev).getD k 0#17 = 0#17 :=
  List.getD_eq_default _ _ (by rwa [length_initialOrders])

/-- Below 1024 the store index of an address is the address. -/
theorem storeIndex_ofNat {k : Nat} (h : k < 1024) : storeIndex (BitVec.ofNat 11 k) = k := by
  rw [storeIndex_eq, BitVec.toNat_ofNat]
  omega

/-! ### The loader -/

theorem step_loading_word {s : State} (hload : s.status = .loading) (hwait : s.wait = false)
    (hsilent : s.hostEvents = []) (hlt : s.bootNext < s.ordersLength) :
    ∃ n : Notices, step s = .next { s with
      store := s.store.write s.bootNext (Config.initialOrderWord s.config.bootRev s.bootNext)
      ticks := s.ticks + 1000, bootNext := s.bootNext + 1, notices := n } := by
  have hwrite : s.store.write (storeIndex (BitVec.ofNat 11 s.bootNext)) =
      s.store.write s.bootNext :=
    congrArg _ (storeIndex_ofNat (hlt.trans_le s.ordersLength_le))
  obtain ⟨-, heq⟩ | ⟨hle, -⟩ := loadStep_cases { s with notices := {} }
  · rw [← hwrite]
    exact ⟨_, (step_loading hload hwait hsilent).trans (congrArg _ heq)⟩
  · exact absurd hlt (not_lt.mpr hle)

theorem step_loading_end {s : State} (hload : s.status = .loading) (hwait : s.wait = false)
    (hsilent : s.hostEvents = []) (hle : s.ordersLength ≤ s.bootNext) :
    ∃ n : Notices, step s = .next { s with scr := 0#11, status := .running, notices := n } := by
  obtain ⟨hlt, -⟩ | ⟨-, heq⟩ := loadStep_cases { s with notices := {} }
  · exact absurd hlt (not_lt.mpr hle)
  · exact ⟨_, (step_loading hload hwait hsilent).trans (congrArg _ heq)⟩

/-- What the loader leaves at every index when it goes on from its position: the words still to come at
theirs, and every other word as before. -/
theorem runSteps_loading_read {s t : State} {left : Nat} (hwf : s.store.wf = true)
    (hload : s.status = .loading) (hwait : s.wait = false) (hsilent : s.hostEvents = [])
    (hleft : s.bootNext + left = s.ordersLength) (hrun : runSteps (left + 1) s = .next t)
    (k : Nat) :
    t.store.read k =
      if s.bootNext ≤ k ∧ k < s.ordersLength then Config.initialOrderWord s.config.bootRev k
      else s.store.read k := by
  induction left generalizing s with
  | zero =>
    obtain ⟨n, hstep⟩ := step_loading_end hload hwait hsilent hleft.ge
    obtain rfl := Host.Outcome.next.inj ((runSteps_succ 0 hstep).symm.trans hrun)
    rw [if_neg (by omega)]
  | succ left ih =>
    have hlt : s.bootNext < s.ordersLength := by omega
    obtain ⟨n, hstep⟩ := step_loading_word hload hwait hsilent hlt
    have hcanonical := Store.write_wf (Config.initialOrderWord s.config.bootRev s.bootNext) hwf
      (hlt.trans_le s.ordersLength_le)
    have hnext : s.bootNext + 1 + left = s.ordersLength := by omega
    have hread : t.store.read k =
        if s.bootNext + 1 ≤ k ∧ k < s.ordersLength then Config.initialOrderWord s.config.bootRev k
        else (s.store.write s.bootNext
          (Config.initialOrderWord s.config.bootRev s.bootNext)).read k :=
      ih (s := { s with store := _, ticks := _, bootNext := s.bootNext + 1, notices := n })
        hcanonical hload hwait hsilent hnext ((runSteps_succ _ hstep).symm.trans hrun)
    rw [hread]
    by_cases hk : k = s.bootNext
    · rw [hk, if_neg (by omega), if_pos ⟨le_rfl, hlt⟩]
      exact Store.read_write_same hwf _ _
    · rw [Store.read_write_other _ _ hk]
      exact if_congr (by omega) rfl rfl

/-- Settles O57: the run of the loader from its first position, and what its writes leave. -/
theorem loaderLoadsTheInitialOrders : Obligations.LoaderLoadsTheInitialOrders := by
  intro s hwf hload hwait hsilent hfirst
  have hleft : s.bootNext + s.ordersLength = s.ordersLength := by omega
  obtain ⟨store, hrun⟩ := runSteps_loading hload hwait hsilent hleft
  refine ⟨_, hrun, fun k _ => ?_, by simp [State.launched, hfirst]⟩
  rw [runSteps_loading_read hwf hload hwait hsilent hleft hrun k, hfirst]
  by_cases hk : k < s.ordersLength
  · rw [if_pos ⟨k.zero_le, hk⟩, if_pos hk, getD_initialOrders hk]
  · rw [if_neg fun ⟨_, h⟩ => hk h, if_neg hk]

/-! ### A clean launch from power-on -/

/-- The words of a program at consecutive addresses, each with its place. -/
theorem exists_of_mem_programAt {a : Addr} {ws : List Word} {e : Addr × Word}
    (h : e ∈ programAt a ws) :
    ∃ k, k < ws.length ∧ e = (a + BitVec.ofNat 11 k, ws.getD k 0#17) := by
  induction ws generalizing a with
  | nil => cases h
  | cons w ws ih =>
    rcases List.mem_cons.mp h with rfl | h
    · exact ⟨0, Nat.zero_lt_succ _, by simp⟩
    · obtain ⟨k, hk, rfl⟩ := ih h
      refine ⟨k + 1, Nat.succ_lt_succ hk, ?_⟩
      rw [List.getD_cons_succ, BitVec.add_assoc, BitVec.add_comm 1#11, ← BitVec.ofNat_add]

/-- A program of at most 1024 words stands where the store holds it from index 0 on. -/
theorem memRead_programAt_zero {s : State} {ws : List Word} (hlen : ws.length ≤ 1024)
    (hread : ∀ k : Nat, k < 1024 → s.store.read k = ws.getD k 0#17) :
    ∀ e ∈ programAt 0#11 ws, s.memRead e.1 = e.2 := by
  intro e he
  obtain ⟨k, hk, rfl⟩ := exists_of_mem_programAt he
  have hk : k < 1024 := hk.trans_le hlen
  rw [State.memRead, BitVec.zero_add, storeIndex_ofNat hk, hread k hk]

/-- The state after power-on, with a host that has chosen a configuration and a tape. -/
def State.prepared (fc : FnCode) (period : Nat) (lp : Code) (c : HostConfig)
    (items : List TapeItem) : State :=
  { State.powerOn fc period lp with config := c, tape := items }

theorem hostAct_start_permitted {s : State} (h : (s.atRest && !s.wait) = true) :
    hostAct .start s = .next s.beginLoading := congrArg _ (State.hostStart_permitted h)

/-- After power-on `START_CLEARS` makes no difference but for the notices: the tanks are clear. -/
theorem step_start_prepared (fc : FnCode) (period : Nat) (lp : Code) (c : HostConfig)
    (items : List TapeItem) :
    ∃ n : Notices, step { State.prepared fc period lp c items with hostEvents := [.start] } =
      .next { State.prepared fc period lp c items with status := .loading, notices := n } := by
  rw [step_event rfl, hostAct_start_permitted rfl]
  cases hclears : Config.startClears with
  | true =>
    rw [State.beginLoading_clears _ hclears, State.clearTanks_spec]
    exact ⟨_, rfl⟩
  | false =>
    rw [State.beginLoading_keeps _ hclears]
    exact ⟨_, rfl⟩

/-- Settles O59: `start` leaves the cleared machine loading, and the loader leaves the launch. -/
theorem startFromPowerOn : Obligations.StartFromPowerOn := by
  intro fc period lp c items hfc
  obtain ⟨n, hstart⟩ := step_start_prepared fc period lp c items
  obtain ⟨t, hrun, hread, ht⟩ := loaderLoadsTheInitialOrders
    { State.prepared fc period lp c items with status := .loading, notices := n }
    rfl rfl rfl rfl rfl
  have horders : ∀ k : Nat, k < 1024 → t.store.read k = (initialOrders c.bootRev).getD k 0#17 := by
    intro k hk
    refine (hread k hk).trans (ite_eq_left_iff.mpr fun hend => ?_)
    exact (getD_initialOrders_beyond (not_lt.mp hend)).symm
  generalize t.store = store at ht horders
  subst ht
  refine ⟨_, (runSteps_succ _ hstart).trans hrun, horders,
    ⟨⟨hfc, rfl, rfl, rfl, rfl⟩, rfl, ?_, ?_⟩, ?_⟩
  · exact memRead_programAt_zero
      ((length_initialOrders _).trans_le (Nat.le_of_lt_succ (Config.initialOrdersLength _).isLt))
      horders
  · exact ⟨Accumulator.value_zero, LongRegister.value_zero, LongRegister.value_zero, rfl, rfl,
      fun k hend hk => (horders k hk).trans (getD_initialOrders_beyond hend)⟩
  · simp [State.prepared, State.powerOn, State.ordersLength]

end Sys2Proof.Machine
